-- ==== Sys2Proof/Word.lean ====
section
/-! DEFINITION. The three widths the block works in (spec/00_scope.md R8, R10, R11): all values are unsigned bit
vectors, bit 0 the least significant. -/

namespace Sys2Proof

/-- A byte: 8 bits (R11). Type codes, `RTYPE`, `RACK`, the operand of format `B` and every stream item. -/
abbrev Byte := BitVec 8

/-- 16 bits: the length field, the `len` operand and `RLEN` (R8). -/
abbrev Half := BitVec 16

/-- 32 bits: `CRC`, the command word, the header word and `RDATA` (R8, R15, R61). -/
abbrev Word := BitVec 32

end Sys2Proof
end

