-- ==== Sys2Proof/Config.lean ====
section
/-! DEFINITION. What the source fixes, as literals (spec/00_scope.md R6), and what it leaves open, as constants without a
body (R7, decisions D8 and D15), so that nothing can be proved of an open value but the constraint R7 itself gives. -/

namespace Sys2Proof.Config

/-! ### Constants the source fixes (R6) -/

/-- `SOF`, header byte 0. -/
def sof : Byte := 0x5A

/-- `T_START`. -/
def typeStart : Byte := 0x01

/-- `T_STOP`. -/
def typeStop : Byte := 0x23

/-- `T_RESP`. -/
def typeResp : Byte := 0x45

/-- `T_CONF`. -/
def typeConf : Byte := 0x67

/-- `T_DATA`. -/
def typeData : Byte := 0x89

/-- The closed enum of packet type codes (R62). -/
def packetTypes : List Byte := [typeStart, typeStop, typeResp, typeConf, typeData]

/-- `CRC_POLY`: the 32 low coefficients, the x^32 term implied (R6, R90). -/
def crcPoly : Word := 0x04C11DB7

/-- `CRC_INIT`. -/
def crcInit : Word := 0xFFFFFFFF

/-- `HDR_SIZE`, in bytes. -/
def headerSize : Nat := 4

/-- `RESP_SIZE`, in bytes. -/
def responseSize : Nat := 12

/-- `MAX_CHUNK`, in bytes. -/
def maxChunk : Nat := 1024

/-- `LEN_START` and `LEN_STOP`: the header length field of START and of STOP. -/
def lenStartStop : Half := 4

/-- `LEN_CONF`: 12, although 16 payload bytes follow (R68, decision D9: preserved, never "corrected"). -/
def lenConf : Half := 12

/-- `LEN_RESP`: "length=4 (unused)". -/
def lenResp : Half := 4

/-- `ACK_OFFSET`: the absolute offset of the ack/nack code in a response (conflict C1). -/
def ackOffset : Nat := 4

/-! ### Parameters the source leaves open (R7)

Log entries 1 and 2. -/

/-- `ACK_CODE`: the source never gives its value (R7, D8, N1). -/
opaque ackCode : Byte

/-- How far `NACK_CODE` lies above `ACK_CODE`, less one: any of the 255 values that keep the two codes apart (R7). -/
opaque nackOffset : Fin 255

/-- `NACK_CODE`: any byte but `ACK_CODE`; R7 constrains it no further. -/
def nackCode : Byte := ackCode + BitVec.ofNat 8 (nackOffset.val + 1)

/-- Two numbers to make a fraction of; with no number known, any fraction. -/
structure Ratio where
  /-- above the line -/
  num : Nat
  /-- below the line, less one -/
  den : Nat
deriving DecidableEq, Repr, Inhabited

/-- A fraction from 0 on: every one is reached. -/
def Ratio.nonneg (r : Ratio) : Rat := r.num / (r.den + 1)

/-- A fraction above 0: every one is reached. -/
def Ratio.pos (r : Ratio) : Rat := (r.num + 1) / (r.den + 1)

/-- A length of time, on one scale for all of them; what the scale's 1 is, is not said. -/
structure Duration where
  /-- how long -/
  length : Rat
deriving DecidableEq, Repr

/-- `TIME_UNIT`, as a fraction of the scale's 1. -/
opaque timeUnitRatio : Ratio

/-- `T_SETTLE`, as a fraction of the scale's 1. -/
opaque settleRatio : Ratio

/-- By how much `T_PHASE` exceeds `T_SETTLE`, as a fraction of the scale's 1. -/
opaque phaseBeyondSettleRatio : Ratio

/-- What the transport's owner set `T_READ_TIMEOUT` to, if anything. -/
opaque readTimeoutSetting : Option Ratio

/-- `TIME_UNIT`: the unit of "30 time-units", any length of time (R7, D15). -/
def timeUnit : Duration := ⟨timeUnitRatio.pos⟩

/-- `T_SETTLE`: "fixed, small", greater than 0 and no more is known (R7, D15). -/
def tSettle : Duration := ⟨settleRatio.pos⟩

/-- `T_PHASE`: "larger" than `T_SETTLE` and no more is known (R7, D15). -/
def tPhase : Duration := ⟨settleRatio.pos + phaseBeyondSettleRatio.pos⟩

/-- `READ_TIMEOUT_DEFAULT`: "device default observed: 30 time-units" (R6). -/
def readTimeoutDefault : Duration := ⟨30 * timeUnit.length⟩

/-- `T_READ_TIMEOUT`: as it was set, else its default (R7, D15); no rule reads it, it shows only as a short read (R43, R174). -/
def tReadTimeout : Duration :=
  match readTimeoutSetting with
  | some r => ⟨r.nonneg⟩
  | none => readTimeoutDefault

end Sys2Proof.Config
end

