-- ==== Sys2Proof/Syntax.lean ====
section
/-! DEFINITION. One constructor per row of spec/opcode_table.json: the eleven operations a command word names (spec/30_encoding.md
R74, R75) and the five packet headers a header word names (R61, R62). -/

namespace Sys2Proof

/-- Where a 32-bit word is read: the two encodings of 30_encoding.md, Part B and Part A. -/
inductive Port where
  /-- a command word the host issues to the block (R74) -/
  | command
  /-- a header word: the first four bytes of a packet on the link (R61) -/
  | link
deriving DecidableEq, Repr

/-- An instruction: an operation of the block, or a packet header crossing the link towards the block. -/
inductive Instr where
  /-- `CRCINIT` (R94) -/
  | crcinit
  /-- `CRCB b` (R95) -/
  | crcb (b : Byte)
  /-- `CRCRD` (R97) -/
  | crcrd
  /-- `TXB b` (R110) -/
  | txb (b : Byte)
  /-- `TXCB b` (R111) -/
  | txcb (b : Byte)
  /-- `TXHDR type, len` (R112) -/
  | txhdr (ptype : Byte) (len : Half)
  /-- `TXCRC` (R113) -/
  | txcrc
  /-- `RXHDR` (R141) -/
  | rxhdr
  /-- `RXRESP` (R143) -/
  | rxresp
  /-- `RDST` (R170) -/
  | rdst
  /-- `RDRX` (R171) -/
  | rdrx
  /-- `WIRE.START`: the header of a START packet (R62, R66) -/
  | wireStart (len : Half)
  /-- `WIRE.STOP`: the header of a STOP packet (R62, R67) -/
  | wireStop (len : Half)
  /-- `WIRE.RESP`: the header of a RESP packet (R62, R70) -/
  | wireResp (len : Half)
  /-- `WIRE.CONF`: the header of a CONF packet (R62, R68) -/
  | wireConf (len : Half)
  /-- `WIRE.DATA`: the header of a DATA packet (R62, R69) -/
  | wireData (len : Half)
deriving DecidableEq, Repr

end Sys2Proof
end

