-- ==== Sys2Proof/WellFormed.lean ====
section
/-! DEFINITION. Which instructions the spec itself lays out. A command has no illegal operand (R77); a header is well-formed
when its length field is the one the table of R63 fixes for its type. The DECODERS do not ask for it: on receipt the length
field has no illegal value (R71 c), so an ill-formed header still decodes and still has its meaning. -/

namespace Sys2Proof

/-- The length field R63 fixes for a packet header; a RESP's is "unused" and a command's operands are all legal. -/
def Instr.wellFormed : Instr → Bool
  | .crcinit => true
  | .crcb _ => true
  | .crcrd => true
  | .txb _ => true
  | .txcb _ => true
  | .txhdr _ _ => true
  | .txcrc => true
  | .rxhdr => true
  | .rxresp => true
  | .rdst => true
  | .rdrx => true
  | .wireStart len => len == Config.lenStartStop
  | .wireStop len => len == Config.lenStartStop
  | .wireResp _ => true
  | .wireConf len => len == Config.lenConf
  | .wireData len => decide (len.toNat ≤ Config.maxChunk)

end Sys2Proof
end

