-- ==== Sys2Proof/Decode.lean ====
section
/-! DEFINITION. The two decoders (command words, spec/30_encoding.md R74 to R77; header words, R61, R62, R71), total and
rejecting by name, then the encoder of both and the opcode table's rows as data. -/

namespace Sys2Proof

/-- Why a word names no instruction. -/
inductive Reject where
  /-- `op` is 0x0 or 0xC to 0xF (R77 a) -/
  | illegalOpcode
  /-- `CMD[27:24]` is not zero (R77 b) -/
  | mustBeZero
  /-- format `N` with `CMD[23:0]` not zero (R77 c) -/
  | operandOfFormatN
  /-- format `B` with `CMD[23:8]` not zero (R77 d) -/
  | operandOfFormatB
  /-- header byte 0 is not `SOF` (R71 a) -/
  | badSof
  /-- header byte 1 is none of the five type codes (R71 b) -/
  | unknownType
  /-- a header is read from exactly four bytes (R60) -/
  | notFourBytes
deriving DecidableEq, Repr

/-- `CMD[31:28]` (R74). -/
def opField (w : Word) : BitVec 4 := w.extractLsb' 28 4

/-- `CMD[27:24]`, zero in every legal word (R74). -/
def mbzField (w : Word) : BitVec 4 := w.extractLsb' 24 4

/-- Format `N`: no operand, `CMD[23:0]` zero (R74, R77). -/
def formatN (w : Word) (i : Instr) : Except Reject Instr :=
  if mbzField w ≠ 0 then .error .mustBeZero
  else if w.extractLsb' 0 24 ≠ 0 then .error .operandOfFormatN
  else .ok i

/-- Format `B`: the byte operand `CMD[7:0]`, `CMD[23:8]` zero (R74, R77). -/
def formatB (w : Word) (mk : Byte → Instr) : Except Reject Instr :=
  if mbzField w ≠ 0 then .error .mustBeZero
  else if w.extractLsb' 8 16 ≠ 0 then .error .operandOfFormatB
  else .ok (mk (w.extractLsb' 0 8))

/-- Format `H`: `type = CMD[7:0]`, `len = CMD[23:8]`; no illegal operand (R74, R77). -/
def formatH (w : Word) (mk : Byte → Half → Instr) : Except Reject Instr :=
  if mbzField w ≠ 0 then .error .mustBeZero
  else .ok (mk (w.extractLsb' 0 8) (w.extractLsb' 8 16))

/-- The opcode map of R75; a function of the word alone (R76). -/
def decodeCommand (w : Word) : Except Reject Instr :=
  match (opField w).toNat with
  | 0x1 => formatN w .crcinit
  | 0x2 => formatB w .crcb
  | 0x3 => formatN w .crcrd
  | 0x4 => formatB w .txb
  | 0x5 => formatB w .txcb
  | 0x6 => formatH w .txhdr
  | 0x7 => formatN w .txcrc
  | 0x8 => formatN w .rxhdr
  | 0x9 => formatN w .rxresp
  | 0xA => formatN w .rdst
  | 0xB => formatN w .rdrx
  | _ => .error .illegalOpcode

/-- The packet type a header word names (R61, R62): `H[7:0]` is `SOF`, `H[15:8]` the type code, `H[31:16]` the length,
which is checked against nothing (R71 c). -/
def decodeHeader (w : Word) : Except Reject Instr :=
  if w.extractLsb' 0 8 ≠ Config.sof then .error .badSof
  else if w.extractLsb' 8 8 = Config.typeStart then .ok (.wireStart (w.extractLsb' 16 16))
  else if w.extractLsb' 8 8 = Config.typeStop then .ok (.wireStop (w.extractLsb' 16 16))
  else if w.extractLsb' 8 8 = Config.typeResp then .ok (.wireResp (w.extractLsb' 16 16))
  else if w.extractLsb' 8 8 = Config.typeConf then .ok (.wireConf (w.extractLsb' 16 16))
  else if w.extractLsb' 8 8 = Config.typeData then .ok (.wireData (w.extractLsb' 16 16))
  else .error .unknownType

/-- The decoder of the port a word is read at. -/
def decode : Port → Word → Except Reject Instr
  | .command, w => decodeCommand w
  | .link, w => decodeHeader w

/-- Four bytes read as one little-endian word: byte 0 is the least significant (R11 `unLE`, R61). -/
def wordOfBytes (b0 b1 b2 b3 : Byte) : Word := b3 ++ b2 ++ b1 ++ b0

/-- A header as it crosses the link: four bytes in wire order (R60, R61). -/
def decodeWire : List Byte → Except Reject Instr
  | [b0, b1, b2, b3] => decodeHeader (wordOfBytes b0 b1 b2 b3)
  | _ => .error .notFourBytes

/-! ### Encoder -/

/-- The port at which an instruction is read. -/
def Instr.port : Instr → Port
  | .crcinit => .command
  | .crcb _ => .command
  | .crcrd => .command
  | .txb _ => .command
  | .txcb _ => .command
  | .txhdr _ _ => .command
  | .txcrc => .command
  | .rxhdr => .command
  | .rxresp => .command
  | .rdst => .command
  | .rdrx => .command
  | .wireStart _ => .link
  | .wireStop _ => .link
  | .wireResp _ => .link
  | .wireConf _ => .link
  | .wireData _ => .link

/-- A word of format `N` or `B`: `op`, `CMD[27:8]` zero, the operand byte (zero in format `N`) (R74). -/
def commandWord (op : BitVec 4) (b : Byte) : Word := op ++ (0 : BitVec 20) ++ b

/-- A word of format `H`: `op` 0x6 and `CMD[27:24]` zero, the length, the type (R74). -/
def txhdrWord (ptype : Byte) (len : Half) : Word := (0x60 : BitVec 8) ++ len ++ ptype

/-- A header word: length, type, `SOF` from the top (R61). -/
def headerWord (ptype : Byte) (len : Half) : Word := len ++ ptype ++ Config.sof

/-- The word of an instruction: the command words of R78 and the header words of R61. -/
def encode : Instr → Word
  | .crcinit => commandWord 0x1 0
  | .crcb b => commandWord 0x2 b
  | .crcrd => commandWord 0x3 0
  | .txb b => commandWord 0x4 b
  | .txcb b => commandWord 0x5 b
  | .txhdr ptype len => txhdrWord ptype len
  | .txcrc => commandWord 0x7 0
  | .rxhdr => commandWord 0x8 0
  | .rxresp => commandWord 0x9 0
  | .rdst => commandWord 0xA 0
  | .rdrx => commandWord 0xB 0
  | .wireStart len => headerWord Config.typeStart len
  | .wireStop len => headerWord Config.typeStop len
  | .wireResp len => headerWord Config.typeResp len
  | .wireConf len => headerWord Config.typeConf len
  | .wireData len => headerWord Config.typeData len

/-! ### The opcode table as data -/

/-- A row of the opcode table: a word selects it when `(w AND mask) = pattern` (R75). -/
structure Row where
  /-- the bits the row looks at -/
  mask : Word
  /-- the values it asks of them -/
  pattern : Word
deriving DecidableEq, Repr

/-- The row of R75 (commands) or R62 (headers) that an instruction belongs to. -/
def Instr.row : Instr → Row
  | .crcinit => ⟨0xFFFFFFFF, 0x10000000⟩
  | .crcb _ => ⟨0xFFFFFF00, 0x20000000⟩
  | .crcrd => ⟨0xFFFFFFFF, 0x30000000⟩
  | .txb _ => ⟨0xFFFFFF00, 0x40000000⟩
  | .txcb _ => ⟨0xFFFFFF00, 0x50000000⟩
  | .txhdr _ _ => ⟨0xFF000000, 0x60000000⟩
  | .txcrc => ⟨0xFFFFFFFF, 0x70000000⟩
  | .rxhdr => ⟨0xFFFFFFFF, 0x80000000⟩
  | .rxresp => ⟨0xFFFFFFFF, 0x90000000⟩
  | .rdst => ⟨0xFFFFFFFF, 0xA0000000⟩
  | .rdrx => ⟨0xFFFFFFFF, 0xB0000000⟩
  | .wireStart _ => ⟨0x0000FFFF, 0x0000015A⟩
  | .wireStop _ => ⟨0x0000FFFF, 0x0000235A⟩
  | .wireResp _ => ⟨0x0000FFFF, 0x0000455A⟩
  | .wireConf _ => ⟨0x0000FFFF, 0x0000675A⟩
  | .wireData _ => ⟨0x0000FFFF, 0x0000895A⟩

/-- The instruction the opcode table reads in a word of `nbits` bits: a command row if one matches, else a header row.
The two encodings overlap only where a `TXHDR` word also reads as a header; there the command wins (log entry 8). -/
def decodeTableWord (nbits w : Nat) : Option Instr :=
  match decodeCommand (BitVec.ofNat 32 (w % 2 ^ nbits)) with
  | .ok i => some i
  | .error _ =>
    match decodeHeader (BitVec.ofNat 32 (w % 2 ^ nbits)) with
    | .ok i => some i
    | .error _ => none

end Sys2Proof
end

