-- ==== Sys2Proof/Machine/State.lean ====
section
/-! DEFINITION. The machine's state as plain data: the six registers of spec/10_state.md R20, the two byte streams R30 and R31,
and the model's own fields, which stand for what reaches the block from outside (the host's command words, the environment's
moves) and for the value the last operation returned. -/

namespace Sys2Proof.Machine

/-- The result codes of R23; codes 6 and 7 are never written, so the type need not have them (U13). -/
inductive Res where
  /-- 0: no receive operation has completed since reset -/
  | none
  /-- 1: the last receive operation passed every check -/
  | ok
  /-- 2: fewer bytes than asked were available before the timeout -/
  | short
  /-- 3: byte 0 is not the SOF marker -/
  | badSof
  /-- 4: byte 1 is not a type code the operation accepts -/
  | badType
  /-- 5: `RXRESP` only: the byte at offset 4 is not the ACK code -/
  | notAck
deriving DecidableEq, Repr

/-- What the environment does around one receive operation (R13, R43): an oracle's draw. It decides how many bytes are there when
the read ends; the read is then `Full` if they are enough and `Short` if not, which is all the law R222 puts on the answer. -/
structure ReadMove where
  /-- the bytes that arrive behind those already in `RX` -/
  late : List Byte
  /-- whether the timeout (or a read error, which the block cannot tell from it) comes before the late bytes do -/
  expires : Bool
deriving DecidableEq, Repr

/-- A move of an agent outside the block, at a step boundary (R222). -/
inductive Event where
  /-- the host issues one command word and waits; `move` is the environment's answer should the command read `RX` (R9, R43) -/
  | issue (cmd : Word) (move : ReadMove)
  /-- the peer's bytes arrive on the link (R31) -/
  | arrive (bytes : List Byte)
  /-- the environment applies reset between operations (R190, R191) -/
  | reset
deriving DecidableEq, Repr

/-- Reasons a step can stop with a fault: NONE. Every operation completes (R160), an illegal command word is an exception with
a next state (R166) and a failed read is a result code, so the type has no constructor. Safe: a fault cannot be built. -/
inductive Fault
deriving DecidableEq, Repr

/-- Reasons for a refusal. No step of the block raises one; the last two are raised by the host-level functions of
Machine/Pseudo.lean and Machine/Transfer.lean, before any operation is issued. -/
inductive Refusal where
  /-- an instruction without a meaning yet; no arm of `exec` raises it. Safe. -/
  | notModelled (mnemonic : String)
  /-- raised by `pktData`: a chunk above 1024 bytes is outside what the source defines (R125 d, U16, D19). Safe. -/
  | chunkTooLong (bytes : Nat)
  /-- raised by `beginTransfer`: an image of 2^32 bytes or more has no `image_size` (R124 c, U17). Safe. -/
  | imageTooLarge (bytes : Nat)
deriving DecidableEq, Repr

/-- The state. -/
structure State where
  /-- `CRC`, 32 bits: the running remainder (R22) -/
  crc : Word
  /-- `RES`, 3 bits: the result of the last receive operation (R23) -/
  res : Res
  /-- `RTYPE`, 8 bits: byte 1 of the last header or response read in full (R24) -/
  rtype : Byte
  /-- `RLEN`, 16 bits: its length field (R25) -/
  rlen : Half
  /-- `RACK`, 8 bits: the byte at offset 4 of the last response read in full (R26) -/
  rack : Byte
  /-- `FAULT`, 1 bit: an illegal command word was issued since reset (R27) -/
  fault : Bool
  /-- `TX`: every byte emitted since reset, oldest first (R30) -/
  tx : List Byte
  /-- `RX`: the bytes the peer has sent and the block has not consumed (R31) -/
  rx : List Byte
  /-- `RDATA`: what the last operation returned to the host; the model's own field (R15; log entry 3) -/
  rdata : Option Word
  /-- the environment's move during the operation in progress; the model's own field (R43; log entry 4) -/
  read : ReadMove
  /-- the moves of host and environment still to come, next first; the model's own field (R9, R222; log entry 5) -/
  events : List Event
deriving DecidableEq, Repr

/-- The machine right after reset: the registers and `TX` as R36 gives them. `RX` is not reset by R36 and holds nothing here
(log entry 6); the model's own fields hold no value returned, no late byte and no move to come (log entries 3 to 5). -/
def State.reset : State where
  crc := 0xFFFFFFFF
  res := .none
  rtype := 0
  rlen := 0
  rack := 0
  fault := false
  tx := []
  rx := []
  rdata := Option.none
  read := ⟨[], false⟩
  events := []

end Sys2Proof.Machine
end

