-- ==== Sys2Proof/Machine/Operands.lean ====
section
/-! DEFINITION. Byte order and field assembly (spec/00_scope.md R11, spec/20_memory.md R44, spec/30_encoding.md R61, R72): every
multi-byte item on the wire is little-endian, and no field is extended, scaled or shifted. -/

namespace Sys2Proof.Machine

/-- `LE_2(v)`. -/
def le2 (v : Half) : List Byte := [v.extractLsb' 0 8, v.extractLsb' 8 8]

/-- `LE_4(v)`. -/
def le4 (v : Word) : List Byte :=
  [v.extractLsb' 0 8, v.extractLsb' 8 8, v.extractLsb' 16 8, v.extractLsb' 24 8]

/-- `unLE` of two bytes: `byte2 + 256 * byte3` (R72). -/
def unLe2 (lo hi : Byte) : Half := hi ++ lo

/-- The four header bytes in wire order (R61): `SOF`, type, length low, length high. -/
def headerBytes (ptype : Byte) (len : Half) : List Byte := [Config.sof, ptype] ++ le2 len

/-- `s[i]`. The decoder only asks for positions inside the bytes a full read gave, so the default is never what it gets. -/
def byteAt (s : List Byte) (i : Nat) : Byte := s.getD i 0

end Sys2Proof.Machine
end

