-- ==== Sys2Proof/Machine/Flags.lean ====
section
/-! DEFINITION. The status state: the verdicts of the two receive operations with their priority (spec/60_exceptions.md R161,
R163), the numeric codes (R23) and the two read-only packings STATUS and RXINFO (R28, R29). -/

namespace Sys2Proof.Machine

/-- The numeric code of a result, 3 bits (R23). -/
def Res.code : Res → BitVec 3
  | .none => 0
  | .ok => 1
  | .short => 2
  | .badSof => 3
  | .badType => 4
  | .notAck => 5

/-- The verdict of `RXHDR` on a header read in full (R141): SOF before type (R163). -/
def judgeHeader (sof ptype : Byte) : Res :=
  if sof ≠ Config.sof then .badSof
  else if ptype ∉ Config.packetTypes then .badType
  else .ok

/-- The verdict of `RXRESP` on a response read in full (R143, R144), for the ACK code given: SOF, then type, then ack (R163). -/
def judgeResponse (ackCode sof ptype ack : Byte) : Res :=
  if sof ≠ Config.sof then .badSof
  else if ptype ≠ Config.typeResp then .badType
  else if ack ≠ ackCode then .notAck
  else .ok

/-- The STATUS word (R28, R170): `RES` in bits 2:0, `FAULT` in bit 8, zero elsewhere. -/
def statusWord (s : State) : Word :=
  (0 : BitVec 23) ++ BitVec.ofBool s.fault ++ (0 : BitVec 5) ++ s.res.code

/-- The RXINFO word (R29, R171): `RACK` in 7:0, `RTYPE` in 15:8, `RLEN` in 31:16. -/
def rxinfoWord (s : State) : Word := s.rlen ++ s.rtype ++ s.rack

end Sys2Proof.Machine
end

