-- ==== Sys2Proof/Machine/Ops.lean ====
section
/-! DEFINITION. The named operations over registers and streams: one update per piece of state, the stream primitives
`MemWrite(TX, n, s)` and `MemRead(RX, n)` (spec/20_memory.md R42, R43), the two receive operations' effects, the
`IllegalCommand` exception (spec/60_exceptions.md R166) and reset (spec/70_reset_and_hazards.md R190). There is no return from
an exception: R169, R172. -/

namespace Sys2Proof.Machine

/-! ### One update per piece of state -/

/-- `CRC <- c`. -/
def State.setCrc (s : State) (c : Word) : State := { s with crc := c }

/-- `RES <- r`. -/
def State.setRes (s : State) (r : Res) : State := { s with res := r }

/-- `RTYPE <- t; RLEN <- n`. -/
def State.setHeader (s : State) (t : Byte) (n : Half) : State := { s with rtype := t, rlen := n }

/-- `RACK <- a`. -/
def State.setAck (s : State) (a : Byte) : State := { s with rack := a }

/-- `FAULT <- 1`; nothing but reset clears it (R27). -/
def State.setFault (s : State) : State := { s with fault := true }

/-- `return v`, or nothing: `RDATA` is that of the operation just done (R15). -/
def State.returns (s : State) (v : Option Word) : State := { s with rdata := v }

/-- `MemWrite(TX, n, bs)`: append to `TX`; never fails (R42). -/
def State.emit (s : State) (bs : List Byte) : State := { s with tx := s.tx ++ bs }

/-- The environment appends bytes to `RX` (R31). -/
def State.arrive (s : State) (bs : List Byte) : State := { s with rx := s.rx ++ bs }

/-- `RX <- bs`, used by `memRead` alone. -/
def State.setRx (s : State) (bs : List Byte) : State := { s with rx := bs }

/-- The environment's move for the operation that is about to run. -/
def State.setRead (s : State) (m : ReadMove) : State := { s with read := m }

/-- The moves still to come. -/
def State.setEvents (s : State) (es : List Event) : State := { s with events := es }

/-! ### Reading `RX` -/

/-- The environment's answer to a read (R13, R43). -/
inductive Answer where
  /-- the bytes asked for -/
  | full (bytes : List Byte)
  /-- fewer bytes than asked for, all that had arrived; no operation uses them -/
  | short (bytes : List Byte)
deriving DecidableEq, Repr

/-- The bytes that have arrived when the read ends. -/
def State.inTime (s : State) : List Byte := if s.read.expires then s.rx else s.rx ++ s.read.late

/-- The bytes that arrive only once it has ended. -/
def State.tooLate (s : State) : List Byte := if s.read.expires then s.read.late else []

/-- Whether a read of `n` bytes is answered `Full`: `n` bytes arrived in time (R43). -/
def State.satisfied (s : State) (n : Nat) : Bool := decide (n ≤ s.inTime.length)

/-- `MemRead(RX, n)` (R43): `Full` removes the first `n` bytes; `Short` consumes every byte that had arrived, fewer than `n`. Bytes
that come too late for the read are then appended to `RX` (R31). -/
def State.memRead (s : State) (n : Nat) : Answer × State :=
  if s.satisfied n then (.full (s.inTime.take n), s.setRx (s.inTime.drop n ++ s.tooLate))
  else (.short s.inTime, s.setRx s.tooLate)

/-- The effect of `RXHDR` on the registers and `RX` (R141). -/
def State.receiveHeader (s : State) : State :=
  match s.memRead Config.headerSize with
  | (.short _, s') => s'.setRes .short
  | (.full h, s') =>
    (s'.setHeader (byteAt h 1) (unLe2 (byteAt h 2) (byteAt h 3))).setRes (judgeHeader (byteAt h 0) (byteAt h 1))

/-- The effect of `RXRESP` on the registers and `RX`, for the ACK code given (R143). -/
def State.receiveResponse (s : State) (ackCode : Byte) : State :=
  match s.memRead Config.responseSize with
  | (.short _, s') => s'.setRes .short
  | (.full r, s') =>
    ((s'.setHeader (byteAt r 1) (unLe2 (byteAt r 2) (byteAt r 3))).setAck (byteAt r Config.ackOffset)).setRes
      (judgeResponse ackCode (byteAt r 0) (byteAt r 1) (byteAt r Config.ackOffset))

/-! ### The exception and reset -/

/-- `raise IllegalCommand` (R166): `FAULT <- 1`, no other register, `TX` and `RX` untouched, no `RDATA`. Nothing is saved and
control goes nowhere (R168). -/
def State.raiseIllegalCommand (s : State) : State := s.setFault.returns none

/-- The reset event (R190): every register and `TX` to the values of R36; `RX` is not touched (R193). -/
def State.applyReset (s : State) : State :=
  { s with crc := Config.crcInit, res := .none, rtype := 0, rlen := 0, rack := 0, fault := false, tx := [], rdata := none }

end Sys2Proof.Machine
end

