-- ==== Sys2Proof/Machine/Crc.lean ====
section
/-! DEFINITION. The CRC engine (spec/40_crc.md): the byte step R91, the checksum function R92, and the meanings of CRCINIT, CRCB
and CRCRD. -/

namespace Sys2Proof.Machine

/-- One round of R91: shift left, XOR the polynomial when the bit shifted out was 1. -/
def crcRound (c : Word) : Word :=
  if c.getLsbD 31 then (c <<< 1) ^^^ Config.crcPoly else c <<< 1

/-- `n` rounds. -/
def crcRounds : Nat → Word → Word
  | 0, c => c
  | n + 1, c => crcRounds n (crcRound c)

/-- `crc_step(c, b)` (R91): the byte enters at bits 31:24, then eight rounds. -/
def crcStep (c : Word) (b : Byte) : Word := crcRounds 8 (c ^^^ (b.setWidth 32 <<< 24))

/-- `crc_step` folded over a byte sequence, first byte first. -/
def crcFold (c : Word) (s : List Byte) : Word := s.foldl crcStep c

/-- `crc32_mpeg2(s)` (R92). -/
def crc32 (s : List Byte) : Word := crcFold Config.crcInit s

/-- `CRCINIT` (R94): `CRC <- 0xFFFFFFFF`. -/
def execCrcinit (s : State) : Host.Outcome State Fault Refusal :=
  .next ((s.setCrc Config.crcInit).returns none)

/-- `CRCB b` (R95): `CRC <- crc_step(CRC, b)`. -/
def execCrcb (b : Byte) (s : State) : Host.Outcome State Fault Refusal :=
  .next ((s.setCrc (crcStep s.crc b)).returns none)

/-- `CRCRD` (R97): return `CRC`. -/
def execCrcrd (s : State) : Host.Outcome State Fault Refusal :=
  .next (s.returns (some s.crc))

end Sys2Proof.Machine
end

