-- ==== Sys2Proof/Machine/Link.lean ====
section
/-! DEFINITION. The five packet headers of the opcode table (rows `WIRE.*`, spec/30_encoding.md R61, R62). A header word is not
a command: it is four bytes on the link, and all the block's side of the link does with them is to hold them at the end of `RX`
(spec/10_state.md R31), in wire order, until a receive operation takes them; nothing is judged on arrival (log entry 7). -/

namespace Sys2Proof.Machine

/-- `WIRE.START`: the bytes `5A 01 lenLo lenHi` arrive. -/
def execWireStart (len : Half) (s : State) : Host.Outcome State Fault Refusal :=
  .next (s.arrive (headerBytes Config.typeStart len))

/-- `WIRE.STOP`: the bytes `5A 23 lenLo lenHi` arrive. -/
def execWireStop (len : Half) (s : State) : Host.Outcome State Fault Refusal :=
  .next (s.arrive (headerBytes Config.typeStop len))

/-- `WIRE.RESP`: the bytes `5A 45 lenLo lenHi` arrive. -/
def execWireResp (len : Half) (s : State) : Host.Outcome State Fault Refusal :=
  .next (s.arrive (headerBytes Config.typeResp len))

/-- `WIRE.CONF`: the bytes `5A 67 lenLo lenHi` arrive. -/
def execWireConf (len : Half) (s : State) : Host.Outcome State Fault Refusal :=
  .next (s.arrive (headerBytes Config.typeConf len))

/-- `WIRE.DATA`: the bytes `5A 89 lenLo lenHi` arrive. -/
def execWireData (len : Half) (s : State) : Host.Outcome State Fault Refusal :=
  .next (s.arrive (headerBytes Config.typeData len))

end Sys2Proof.Machine
end

