-- ==== Sys2Proof/Machine/Rx.lean ====
section
/-! DEFINITION. The receive decoder (spec/42_rx_decoder.md): RXHDR and RXRESP. -/

namespace Sys2Proof.Machine

/-- `RXHDR` (R141). -/
def execRxhdr (s : State) : Host.Outcome State Fault Refusal :=
  .next (s.receiveHeader.returns none)

/-- `RXRESP` (R143), for the open parameter `ACK_CODE` (R7). -/
def execRxresp (s : State) : Host.Outcome State Fault Refusal :=
  .next ((s.receiveResponse Config.ackCode).returns none)

end Sys2Proof.Machine
end

