-- ==== Sys2Proof/Machine/Status.lean ====
section
/-! DEFINITION. The status operations (spec/60_exceptions.md R170, R171): RDST and RDRX. -/

namespace Sys2Proof.Machine

/-- `RDST` (R170): return the STATUS word; nothing is cleared. -/
def execRdst (s : State) : Host.Outcome State Fault Refusal :=
  .next (s.returns (some (statusWord s)))

/-- `RDRX` (R171): return the RXINFO word. -/
def execRdrx (s : State) : Host.Outcome State Fault Refusal :=
  .next (s.returns (some (rxinfoWord s)))

end Sys2Proof.Machine
end

