-- ==== Sys2Proof/Machine/Tx.lean ====
section
/-! DEFINITION. The transmit framer (spec/41_tx_framer.md): TXB, TXCB, TXHDR, TXCRC. -/

namespace Sys2Proof.Machine

/-- `TXB b` (R110): append `b`; no escaping. -/
def execTxb (b : Byte) (s : State) : Host.Outcome State Fault Refusal :=
  .next ((s.emit [b]).returns none)

/-- `TXCB b` (R111): append `b` and absorb it into `CRC`. -/
def execTxcb (b : Byte) (s : State) : Host.Outcome State Fault Refusal :=
  .next (((s.emit [b]).setCrc (crcStep s.crc b)).returns none)

/-- `TXHDR type, len` (R112): append the four header bytes; neither operand is checked. -/
def execTxhdr (ptype : Byte) (len : Half) (s : State) : Host.Outcome State Fault Refusal :=
  .next ((s.emit (headerBytes ptype len)).returns none)

/-- `TXCRC` (R113): append `LE_4(CRC)`; `CRC` keeps its value. -/
def execTxcrc (s : State) : Host.Outcome State Fault Refusal :=
  .next ((s.emit (le4 s.crc)).returns none)

end Sys2Proof.Machine
end

