-- ==== Sys2Proof/Machine/Dispatch.lean ====
section
/-! DEFINITION. One arm per constructor of Instr, each one direct call of its meaning. -/

namespace Sys2Proof.Machine

/-- What an instruction does to the state. -/
def exec (i : Instr) (s : State) : Host.Outcome State Fault Refusal :=
  match i with
  | .crcinit => Sys2Proof.Machine.execCrcinit s
  | .crcb b => Sys2Proof.Machine.execCrcb b s
  | .crcrd => Sys2Proof.Machine.execCrcrd s
  | .txb b => Sys2Proof.Machine.execTxb b s
  | .txcb b => Sys2Proof.Machine.execTxcb b s
  | .txhdr ptype len => Sys2Proof.Machine.execTxhdr ptype len s
  | .txcrc => Sys2Proof.Machine.execTxcrc s
  | .rxhdr => Sys2Proof.Machine.execRxhdr s
  | .rxresp => Sys2Proof.Machine.execRxresp s
  | .rdst => Sys2Proof.Machine.execRdst s
  | .rdrx => Sys2Proof.Machine.execRdrx s
  | .wireStart len => Sys2Proof.Machine.execWireStart len s
  | .wireStop len => Sys2Proof.Machine.execWireStop len s
  | .wireResp len => Sys2Proof.Machine.execWireResp len s
  | .wireConf len => Sys2Proof.Machine.execWireConf len s
  | .wireData len => Sys2Proof.Machine.execWireData len s

end Sys2Proof.Machine
end

