-- ==== Sys2Proof/Machine/Issue.lean ====
section
/-! DEFINITION. How a move from outside reaches the block (spec/00_scope.md R9, spec/70_reset_and_hazards.md R222). The block
fetches nothing and has no program counter (spec/10_state.md R21): the order of operations is the order of issue. -/

namespace Sys2Proof.Machine

/-- The host issues a command word (R9): the operation it names runs to completion, or `IllegalCommand` is raised (R77, R166). -/
def issueWord (w : Word) (m : ReadMove) (s : State) : Host.Outcome State Fault Refusal :=
  match decode .command w with
  | .ok i => exec i (s.setRead m)
  | .error _ => .next (s.setRead m).raiseIllegalCommand

/-- Bytes arrive on the link: a packet header has the meaning of its row, any other bytes are appended to `RX` as well (R31). -/
def arriveBytes (bs : List Byte) (s : State) : Host.Outcome State Fault Refusal :=
  match decodeWire bs with
  | .ok i => exec i s
  | .error _ => .next (s.arrive bs)

/-- One move, taken whole: operations are atomic (R9). -/
def perform (e : Event) (s : State) : Host.Outcome State Fault Refusal :=
  match e with
  | .issue w m => issueWord w m s
  | .arrive bs => arriveBytes bs s
  | .reset => .next s.applyReset

/-- The move that puts a word of the opcode table before the block: a command word is issued, a header word arrives as its four
bytes; a word of neither kind is issued, and is then an illegal command. -/
def eventOfWord (w : Word) (m : ReadMove) : Event :=
  match decode .command w with
  | .ok _ => .issue w m
  | .error _ =>
    match decode .link w with
    | .ok _ => .arrive (le4 w)
    | .error _ => .issue w m

end Sys2Proof.Machine
end

