-- ==== Sys2Proof/Machine/Step.lean ====
section
/-! DEFINITION. One step: the next move in the list is taken; with none to come the block is idle (spec/70_reset_and_hazards.md
R190, spec/20_memory.md R52). -/

namespace Sys2Proof.Machine

/-- One step of the machine. -/
def step (s : State) : Host.Outcome State Fault Refusal :=
  match s.events with
  | [] => .next s
  | e :: es => perform e (s.setEvents es)

/-- `s` with the table's instruction as the next move (log entry 5): its command word issued, or its header's bytes arriving. -/
def State.withFetchWord (s : State) (nbits w : Nat) : State :=
  s.setEvents (eventOfWord (BitVec.ofNat 32 (w % 2 ^ nbits)) s.read :: s.events)

end Sys2Proof.Machine
end

