-- ==== Sys2Proof/Machine/Packet.lean ====
section
/-! DEFINITION. The byte-exact layouts of the five packets (spec/30_encoding.md R60 to R70), the VersionTag (spec/70_reset_and_hazards.md
R213) and the chunking of an image (R205): what the pseudo-operations must put on `TX`, and what a response looks like on `RX`. -/

namespace Sys2Proof.Machine

/-- The VersionTag: exactly 4 bytes in caller order, major, minor, patch and a padding zero for "MAJOR.MINOR.PATCH" (R17, R213). -/
structure VersionTag where
  /-- offset 0 -/
  major : Byte
  /-- offset 1 -/
  minor : Byte
  /-- offset 2 -/
  patch : Byte
  /-- offset 3 -/
  fourth : Byte
deriving DecidableEq, Repr

/-- The four bytes in wire order. -/
def versionBytes (v : VersionTag) : List Byte := [v.major, v.minor, v.patch, v.fourth]

/-- Why a list of numeric version components yields no VersionTag. -/
inductive VersionProblem where
  /-- more than 4 components: `InputError` before any packet is sent (R213, conflict C3) -/
  | tooMany
  /-- fewer than 3 components: left open by the source, refused (U2, N20) -/
  | tooFew
  /-- a component that does not fit one byte: left open by the source, refused (U2) -/
  | tooLarge
deriving DecidableEq, Repr

/-- The VersionTag of the numeric components of a version string (R213): zero-padded on the right to 4 bytes. -/
def versionTagOf : List Nat → Except VersionProblem VersionTag
  | [a, b, c] =>
    if a < 256 ∧ b < 256 ∧ c < 256 then .ok ⟨BitVec.ofNat 8 a, BitVec.ofNat 8 b, BitVec.ofNat 8 c, 0⟩ else .error .tooLarge
  | [a, b, c, d] =>
    if a < 256 ∧ b < 256 ∧ c < 256 ∧ d < 256 then
      .ok ⟨BitVec.ofNat 8 a, BitVec.ofNat 8 b, BitVec.ofNat 8 c, BitVec.ofNat 8 d⟩
    else .error .tooLarge
  | cs => if 4 < cs.length then .error .tooMany else .error .tooFew

/-- "8 zero bytes": the payload of START and STOP, covered by no checksum (R66, R67). -/
def eightZeros : List Byte := List.replicate 8 0

/-- START, 12 bytes (R66). -/
def startPacket : List Byte := headerBytes Config.typeStart Config.lenStartStop ++ eightZeros

/-- STOP, 12 bytes (R67). -/
def stopPacket : List Byte := headerBytes Config.typeStop Config.lenStartStop ++ eightZeros

/-- The 12 bytes of CONF that its self-checksum covers (R68): version, image size, image checksum, as emitted. -/
def confBody (v : VersionTag) (size imageCrc : Word) : List Byte := versionBytes v ++ le4 size ++ le4 imageCrc

/-- CONF, 20 bytes with a length field of 12 (R68). -/
def confPacket (v : VersionTag) (size imageCrc : Word) : List Byte :=
  headerBytes Config.typeConf Config.lenConf ++ confBody v size imageCrc ++ le4 (crc32 (confBody v size imageCrc))

/-- The length field of a DATA packet: the chunk's length, checksum excluded (R63, R69). -/
def dataLength (chunk : List Byte) : Half := BitVec.ofNat 16 chunk.length

/-- DATA, `8 + n` bytes (R69). -/
def dataPacket (chunk : List Byte) : List Byte :=
  headerBytes Config.typeData (dataLength chunk) ++ chunk ++ le4 (crc32 chunk)

/-- RESP as the peer sends it (R70): header, ack/nack code at offset 4, then the reserved bytes. -/
def respPacket (len : Half) (ack : Byte) (reserved : List Byte) : List Byte :=
  headerBytes Config.typeResp len ++ [ack] ++ reserved

/-- `K = ceil(N / 1024)` (R205). -/
def chunkCount (n : Nat) : Nat := (n + (Config.maxChunk - 1)) / Config.maxChunk

/-- Chunk `i`: `image[1024*i .. min(1024*(i+1), N)]` (R205). -/
def chunk (image : List Byte) (i : Nat) : List Byte := (image.drop (Config.maxChunk * i)).take Config.maxChunk

/-- The chunks in the order they are sent, each once (R205). -/
def chunks (image : List Byte) : List (List Byte) := (List.range (chunkCount image.length)).map (chunk image)

/-- What a completed transfer appends to `TX` (R207). -/
def transferBytes (image : List Byte) (v : VersionTag) : List Byte :=
  startPacket ++ confPacket v (BitVec.ofNat 32 image.length) (crc32 image) ++ (chunks image).flatMap dataPacket ++ stopPacket

end Sys2Proof.Machine
end

