-- ==== Sys2Proof/Machine/Pseudo.lean ====
section
/-! DEFINITION. The pseudo-operations (spec/30_encoding.md R79): fixed sequences of operations and of the host's mandatory waits,
with no encoding of their own (spec/00_scope.md R16). -/

namespace Sys2Proof.Machine

/-- One action of the host: an operation issued to the block, or time passing. -/
inductive HostAction where
  /-- issue an operation -/
  | op (i : Instr)
  /-- wait `T_SETTLE`, between a packet's header and its payload (R214) -/
  | settle
  /-- wait `T_PHASE`, between major phases (R215) -/
  | phaseWait
  /-- begin `PKT.CONF` with the checksum the CRCRD just before it returned (R201, R124) -/
  | sendConf
deriving DecidableEq, Repr

/-- How long an action makes the host wait; it changes no state of the block (R214, R215, R220). -/
def HostAction.waits : HostAction → Option Config.Duration
  | .op _ => none
  | .settle => some Config.tSettle
  | .phaseWait => some Config.tPhase
  | .sendConf => none

/-- The operations of a sequence of actions, waits left out. -/
def opsOf : List HostAction → List Instr
  | [] => []
  | .op i :: rest => i :: opsOf rest
  | .settle :: rest => opsOf rest
  | .phaseWait :: rest => opsOf rest
  | .sendConf :: rest => opsOf rest

/-- A sequence of operations, each complete before the next (R9, R16). -/
def execAll : List Instr → State → Host.Outcome State Fault Refusal
  | [], s => .next s
  | i :: rest, s =>
    match exec i s with
    | .next s' => execAll rest s'
    | .fault r => .fault r
    | .refused r => .refused r

/-- `CHECKSUM s` (R96). -/
def checksum (s : List Byte) : List Instr := [.crcinit] ++ s.map .crcb ++ [.crcrd]

/-- `TXW w` (R120). -/
def txw (w : Word) : List Instr := (le4 w).map .txb

/-- `TXCW w` (R121). -/
def txcw (w : Word) : List Instr := (le4 w).map .txcb

/-- `PKT.START` (R122). -/
def pktStart : List HostAction :=
  [.op (.txhdr Config.typeStart Config.lenStartStop), .settle] ++ eightZeros.map (fun b => .op (.txb b))

/-- `PKT.STOP` (R123). -/
def pktStop : List HostAction :=
  [.op (.txhdr Config.typeStop Config.lenStartStop), .settle] ++ eightZeros.map (fun b => .op (.txb b))

/-- `PKT.CONF v, N, c` (R124). -/
def pktConf (v : VersionTag) (size imageCrc : Word) : List HostAction :=
  [.op (.txhdr Config.typeConf Config.lenConf), .settle, .op .crcinit] ++
    ((versionBytes v).map Instr.txcb ++ txcw size ++ txcw imageCrc ++ [Instr.txcrc]).map HostAction.op

/-- The expansion of `PKT.DATA chunk` (R125). -/
def dataActions (chunk : List Byte) : List HostAction :=
  [.op (.txhdr Config.typeData (dataLength chunk)), .settle, .op .crcinit] ++
    (chunk.map Instr.txcb ++ [Instr.txcrc]).map HostAction.op

/-- `PKT.DATA chunk` (R125): refused above `MAX_CHUNK` bytes (D19, U16), an empty chunk included in what is defined. -/
def pktData (chunk : List Byte) : Except Refusal (List HostAction) :=
  if chunk.length ≤ Config.maxChunk then .ok (dataActions chunk) else .error (.chunkTooLong chunk.length)

/-- The operations of `AWAIT.ACK` (R146). -/
def awaitAck : List HostAction := [.op .rxresp, .op .rdst]

/-- The test of `AWAIT.ACK`: `st[2:0] = OK`, `st` the word RDST returned (R146). -/
def ackedBy (status : Word) : Bool := status.extractLsb' 0 3 == Res.ok.code

end Sys2Proof.Machine
end

