-- ==== Sys2Proof/Machine/Transfer.lean ====
section
/-! DEFINITION. The host's transfer sequence over the block (the source's Transfer Orchestrator; spec/00_scope.md R4,
spec/70_reset_and_hazards.md R200 to R212). It is the host's state, not the block's (spec/10_state.md R32), so it stands beside
`State`; it reaches the block through `perform` alone, with command words (R222). Log entries 10 to 12 and 21. -/

namespace Sys2Proof.Machine

/-- The source's error kinds (R164). -/
inductive ErrorKind where
  /-- write, read and timeout failures -/
  | transportError
  /-- bad SOF, wrong packet type, an ack byte that is neither code -/
  | protocolViolation
  /-- explicit NACK -/
  | deviceRejected
  /-- raised by host software before any operation is issued (R213); no transfer ends in it -/
  | inputError
deriving DecidableEq, Repr

/-- The states of the host's sequence (R200). -/
inductive Phase where
  /-- nothing sent yet -/
  | idle
  /-- START sent, its response awaited -/
  | awaitStartAck
  /-- CONF sent, its response awaited -/
  | awaitConfigAck
  /-- sending chunk `i` -/
  | sendingChunk (i : Nat)
  /-- the response to chunk `i` awaited -/
  | awaitChunkAck (i : Nat)
  /-- STOP sent, its response awaited -/
  | awaitStopAck
  /-- every gate passed; terminal -/
  | done
  /-- terminal; no retry, no rollback (R210) -/
  | failed (reason : ErrorKind)
deriving DecidableEq, Repr

/-- A transfer in progress. -/
structure Transfer where
  /-- where the sequence stands -/
  phase : Phase
  /-- the actions of this phase still to come -/
  plan : List HostAction
  /-- the immutable image -/
  image : List Byte
  /-- the VersionTag -/
  version : VersionTag
  /-- the block the host drives -/
  block : State
  /-- what the last operation returned to the host, which keeps it: `st` of R146, `c` of R201 -/
  returned : Option Word
deriving DecidableEq, Repr

/-- What the environment does around one action of the host (R222): an oracle's draw. -/
structure HostMove where
  /-- whether the block is reset before the action; the host is not told (R190, R191) -/
  resets : Bool
  /-- bytes that reach `RX` before the action -/
  arrivals : List Byte
  /-- the answer to a read -/
  read : ReadMove
  /-- whether the transport fails the write of an emitting operation (R211) -/
  writeFails : Bool
deriving DecidableEq, Repr

/-- The operations that append to `TX` (R40). -/
def emits : Instr → Bool
  | .txb _ => true
  | .txcb _ => true
  | .txhdr _ _ => true
  | .txcrc => true
  | .crcinit => false
  | .crcb _ => false
  | .crcrd => false
  | .rxhdr => false
  | .rxresp => false
  | .rdst => false
  | .rdrx => false
  | .wireStart _ => false
  | .wireStop _ => false
  | .wireResp _ => false
  | .wireConf _ => false
  | .wireData _ => false

/-- The error kind of a failed `AWAIT.ACK`, from the STATUS and RXINFO words (R164). R164 has no row for `RES` = `NONE`, which a gate
finds after a reset between RXRESP and RDST: that it is a `ProtocolViolation` is the model's choice (DESIGN CHOICE, log entry 21). -/
def failureKind (status rxinfo : Word) : ErrorKind :=
  if status.extractLsb' 0 3 = Res.short.code then .transportError
  else if status.extractLsb' 0 3 = Res.notAck.code ∧ rxinfo.extractLsb' 0 8 = Config.nackCode then .deviceRejected
  else .protocolViolation

/-- The start of a transfer; an image whose size does not fit `image_size` is refused before any operation (R124 c, R205, U17). -/
def beginTransfer (image : List Byte) (v : VersionTag) (b : State) : Except Refusal Transfer :=
  if image.length < 2 ^ 32 then .ok ⟨.idle, [], image, v, b, none⟩ else .error (.imageTooLarge image.length)

/-- Whether the STATUS word the host has read says `OK` (R146). -/
def Transfer.acked (t : Transfer) : Bool :=
  match t.returned with
  | some status => ackedBy status
  | none => false

/-- The gate (R146, R210): on an ACK into the next phase with its plan, else `Failed` with the reason of R164. What the reason is when
a reset came after RXRESP is the model's choice (DESIGN CHOICE, log entry 21). -/
def Transfer.gate (t : Transfer) (next : Phase) (plan : List HostAction) : Transfer :=
  if t.acked then { t with phase := next, plan := plan }
  else { t with phase := .failed (failureKind (t.returned.getD 0) (rxinfoWord t.block)), plan := [] }

/-- The phase that sends chunk `i`, or STOP once the image is exhausted (R201). -/
def Transfer.phaseFrom (t : Transfer) (i : Nat) : Phase :=
  if i < chunkCount t.image.length then .sendingChunk i else .awaitStopAck

/-- Its actions: the DATA packet of chunk `i`, or the phase delay, STOP and the gate's read (R201, R215). -/
def Transfer.planFrom (t : Transfer) (i : Nat) : List HostAction :=
  if i < chunkCount t.image.length then dataActions (chunk t.image i) else [.phaseWait] ++ pktStop ++ awaitAck

/-- What the host does when the plan of a phase is exhausted: the transitions of R200 and R201 (conflict C7: a packet goes out on
entering the phase that awaits its response). -/
def Transfer.advance (t : Transfer) : Transfer :=
  match t.phase with
  | .idle => { t with phase := .awaitStartAck, plan := pktStart ++ awaitAck }
  | .awaitStartAck =>
    t.gate .awaitConfigAck ([.phaseWait] ++ (checksum t.image).map HostAction.op ++ [.sendConf] ++ awaitAck)
  | .awaitConfigAck => t.gate (t.phaseFrom 0) ([.phaseWait] ++ t.planFrom 0)
  | .sendingChunk i => { t with phase := .awaitChunkAck i, plan := awaitAck }
  | .awaitChunkAck i => t.gate (t.phaseFrom (i + 1)) (t.planFrom (i + 1))
  | .awaitStopAck => t.gate .done []
  | .done => t
  | .failed _ => t

/-- The host issues one operation as its command word; a write the transport fails puts the host in `Failed(TransportError)` and
appends nothing (R42, R211; log entry 12). The last two outcomes never occur: every issue has a next state. -/
def Transfer.issue (t : Transfer) (m : HostMove) (i : Instr) (rest : List HostAction) : Transfer :=
  if emits i && m.writeFails then { t with phase := .failed .transportError, plan := [] }
  else
    match perform (.issue (encode i) m.read) t.block with
    | .next b => { t with plan := rest, block := b, returned := b.rdata }
    | .fault _ => t
    | .refused _ => t

/-- One action of the host. `Done` and `Failed` are terminal (R200). -/
def Transfer.act (t : Transfer) (m : HostMove) : Transfer :=
  match t.phase with
  | .done => t
  | .failed _ => t
  | .idle => t.advance
  | _ =>
    match t.plan with
    | [] => t.advance
    | .op i :: rest => t.issue m i rest
    | .settle :: rest => { t with plan := rest }
    | .phaseWait :: rest => { t with plan := rest }
    | .sendConf :: rest =>
      { t with plan := pktConf t.version (BitVec.ofNat 32 t.image.length) (t.returned.getD 0) ++ rest }

/-- What the environment does to the block before an action: it may reset it (R190), and bytes may arrive (R31). -/
def HostMove.onBlock (m : HostMove) (b : State) : State := (if m.resets then b.applyReset else b).arrive m.arrivals

/-- The environment's move on the block, whatever the host is doing; the host sees nothing of it. -/
def Transfer.disturb (t : Transfer) (m : HostMove) : Transfer := { t with block := m.onBlock t.block }

/-- The environment's move, then the host's action. -/
def hostStep (m : HostMove) (t : Transfer) : Transfer := (t.disturb m).act m

/-- The host's actions under the environment's moves, one each. -/
def hostRun : List HostMove → Transfer → Transfer
  | [], t => t
  | m :: ms, t => hostRun ms (hostStep m t)

end Sys2Proof.Machine
end

