-- ==== Sys2Proof/Safety.lean ====
section
/-! DEFINITION. What counts as a safe state, a legal receive record and a successful transfer, in the terms the claims use. -/

namespace Sys2Proof.Safety

open Sys2Proof.Machine

/-- No illegal command word has been issued since reset; a run that breaks it is treated as faulted (spec/60_exceptions.md R166). -/
def Safe (s : State) : Prop := s.fault = false

/-- `Done` counts as success only with `FAULT` clear (R166, R221). -/
def Succeeded (t : Transfer) : Prop := t.phase = .done ∧ Safe t.block

/-- What the receive registers say of each other (spec/60_exceptions.md R161): the record that each verdict in `RES` leaves. -/
def ReceiveRecord (s : State) : Prop :=
  (s.res = .none → s.rtype = 0 ∧ s.rlen = 0 ∧ s.rack = 0) ∧
  (s.res = .ok → s.rtype ∈ Config.packetTypes) ∧
  (s.res = .badType → s.rtype ≠ Config.typeResp) ∧
  (s.res = .notAck → s.rtype = Config.typeResp ∧ s.rack ≠ Config.ackCode)

/-- Whether every header in a sequence of actions is followed by the settle delay before the next operation that appends to `TX`
(spec/70_reset_and_hazards.md R214); `pending` says that a header has gone out and the delay has not passed yet. -/
def settled (pending : Bool) : List HostAction → Bool
  | [] => true
  | .op i :: rest =>
    if emits i then !pending && settled (match i with | .txhdr _ _ => true | _ => false) rest else settled pending rest
  | .settle :: rest => settled false rest
  | .phaseWait :: rest => settled pending rest
  | .sendConf :: rest => settled pending rest

/-- What an instruction appends to `TX` when it finds `crc` in `CRC` (spec/41_tx_framer.md R110 to R113, R127). -/
def appendedBy (crc : Word) : Instr → List Byte
  | .txb b => [b]
  | .txcb b => [b]
  | .txhdr ptype len => [0x5A, ptype, len.extractLsb' 0 8, len.extractLsb' 8 8]
  | .txcrc => [crc.extractLsb' 0 8, crc.extractLsb' 8 8, crc.extractLsb' 16 8, crc.extractLsb' 24 8]
  | .crcinit => []
  | .crcb _ => []
  | .crcrd => []
  | .rxhdr => []
  | .rxresp => []
  | .rdst => []
  | .rdrx => []
  | .wireStart _ => []
  | .wireStop _ => []
  | .wireResp _ => []
  | .wireConf _ => []
  | .wireData _ => []

/-- What an instruction leaves in `CRC` when it finds `crc` there (spec/10_state.md R20, R22). -/
def crcAfter (crc : Word) : Instr → Word
  | .crcinit => 0xFFFFFFFF
  | .crcb b => crcStep crc b
  | .txcb b => crcStep crc b
  | .crcrd => crc
  | .txb _ => crc
  | .txhdr _ _ => crc
  | .txcrc => crc
  | .rxhdr => crc
  | .rxresp => crc
  | .rdst => crc
  | .rdrx => crc
  | .wireStart _ => crc
  | .wireStop _ => crc
  | .wireResp _ => crc
  | .wireConf _ => crc
  | .wireData _ => crc

/-- What a sequence of instructions appends to `TX`, in issue order (R127). -/
def streamOf : Word → List Instr → List Byte
  | _, [] => []
  | crc, i :: rest => appendedBy crc i ++ streamOf (crcAfter crc i) rest

end Sys2Proof.Safety
end

