-- ==== Sys2Proof/Certificates/Slice0/Obligations.lean ====
section
/-! DEFINITION. The statements put to the provers, from the numbered rules of spec/. -/

open Sys2Proof Sys2Proof.Machine Sys2Proof.Safety

/-! ### Encodings -/

/-- Words written out from the tables of R62 and R78, one or more of each format: N, B, H and HDR. -/
def Obligations.WordsOfTheTablesDecode : Prop :=
  decode .command 0x10000000 = .ok .crcinit ∧ decode .command 0x200000AB = .ok (.crcb 0xAB) ∧
  decode .command 0x500000DE = .ok (.txcb 0xDE) ∧ decode .command 0x60123489 = .ok (.txhdr 0x89 0x1234) ∧
  decode .command 0x90000000 = .ok .rxresp ∧ decode .command 0xA0000000 = .ok .rdst ∧
  decode .link 0x0004015A = .ok (.wireStart 4) ∧ decode .link 0x000C675A = .ok (.wireConf 12)

/-- R74, R75, R61, R62: no bit of an encoding is dropped. Every instruction, every operand. -/
def Obligations.DecodeOfEncodeIsTheInstruction : Prop :=
  ∀ i : Instr, decode i.port (encode i) = .ok i

/-- R76, R77: at each port an instruction has one word only. -/
def Obligations.EncodeOfDecodeIsTheWord : Prop :=
  ∀ (p : Port) (w : Word) (i : Instr), decode p w = .ok i → i.port = p ∧ encode i = w

/-- R75, the table and the sentence under it: a command word names each operation exactly when it matches that row's mask and
match, no word matches two rows, and a word that matches none is illegal. -/
def Obligations.CommandRowsSelectDisjointly : Prop :=
  let table : List (Word × Word) :=
    [(0x10000000, 0xFFFFFFFF), (0x20000000, 0xFFFFFF00), (0x30000000, 0xFFFFFFFF), (0x40000000, 0xFFFFFF00),
      (0x50000000, 0xFFFFFF00), (0x60000000, 0xFF000000), (0x70000000, 0xFFFFFFFF), (0x80000000, 0xFFFFFFFF),
      (0x90000000, 0xFFFFFFFF), (0xA0000000, 0xFFFFFFFF), (0xB0000000, 0xFFFFFFFF)]
  (∀ w : Word,
    (decode .command w = .ok .crcinit ↔ w &&& 0xFFFFFFFF = 0x10000000) ∧
    ((∃ b, decode .command w = .ok (.crcb b)) ↔ w &&& 0xFFFFFF00 = 0x20000000) ∧
    (decode .command w = .ok .crcrd ↔ w &&& 0xFFFFFFFF = 0x30000000) ∧
    ((∃ b, decode .command w = .ok (.txb b)) ↔ w &&& 0xFFFFFF00 = 0x40000000) ∧
    ((∃ b, decode .command w = .ok (.txcb b)) ↔ w &&& 0xFFFFFF00 = 0x50000000) ∧
    ((∃ ptype len, decode .command w = .ok (.txhdr ptype len)) ↔ w &&& 0xFF000000 = 0x60000000) ∧
    (decode .command w = .ok .txcrc ↔ w &&& 0xFFFFFFFF = 0x70000000) ∧
    (decode .command w = .ok .rxhdr ↔ w &&& 0xFFFFFFFF = 0x80000000) ∧
    (decode .command w = .ok .rxresp ↔ w &&& 0xFFFFFFFF = 0x90000000) ∧
    (decode .command w = .ok .rdst ↔ w &&& 0xFFFFFFFF = 0xA0000000) ∧
    (decode .command w = .ok .rdrx ↔ w &&& 0xFFFFFFFF = 0xB0000000) ∧
    ((∃ r, decode .command w = .error r) ↔ ∀ row ∈ table, w &&& row.2 ≠ row.1)) ∧
  table.Pairwise (fun a b => ∀ w : Word, ¬ (w &&& a.2 = a.1 ∧ w &&& b.2 = b.1))

/-- R62, R71 (a) to (c): a header word names each packet type exactly when it matches that type's row, its length field then being
whatever stands in bits 31:16; a word that names none has a wrong first byte or a type outside the five. -/
def Obligations.HeaderRowsSelectByType : Prop :=
  ∀ w : Word,
    (decode .link w = .ok (.wireStart (w.extractLsb' 16 16)) ↔ w &&& 0x0000FFFF = 0x0000015A) ∧
    (decode .link w = .ok (.wireStop (w.extractLsb' 16 16)) ↔ w &&& 0x0000FFFF = 0x0000235A) ∧
    (decode .link w = .ok (.wireResp (w.extractLsb' 16 16)) ↔ w &&& 0x0000FFFF = 0x0000455A) ∧
    (decode .link w = .ok (.wireConf (w.extractLsb' 16 16)) ↔ w &&& 0x0000FFFF = 0x0000675A) ∧
    (decode .link w = .ok (.wireData (w.extractLsb' 16 16)) ↔ w &&& 0x0000FFFF = 0x0000895A) ∧
    ((∃ r, decode .link w = .error r) ↔
      w.extractLsb' 0 8 ≠ 0x5A ∨ w.extractLsb' 8 8 ∉ ([0x01, 0x23, 0x45, 0x67, 0x89] : List Byte))

/-- R77: exactly which command words are illegal, by the bits, and what issuing one does: `FAULT <- 1` and nothing else (but the
model's own input fields; no `RDATA`). -/
def Obligations.IllegalCommandWordsByBits : Prop :=
  ∀ w : Word,
    ((∃ r, decode .command w = .error r) ↔
      ((w.extractLsb' 28 4).toNat = 0 ∨ 0xC ≤ (w.extractLsb' 28 4).toNat) ∨
      w.extractLsb' 24 4 ≠ 0 ∨
      ((w.extractLsb' 28 4).toNat ∈ [0x1, 0x3, 0x7, 0x8, 0x9, 0xA, 0xB] ∧ w.extractLsb' 0 24 ≠ 0) ∨
      ((w.extractLsb' 28 4).toNat ∈ [0x2, 0x4, 0x5] ∧ w.extractLsb' 8 16 ≠ 0)) ∧
    ((∃ r, decode .command w = .error r) → ∀ (s : State) (m : ReadMove) (es : List Event), s.events = .issue w m :: es →
      step s = .next { s with fault := true, rdata := none, read := m, events := es })

/-! ### Steps: issue, arrival, reset -/

/-- R9, R76: a legal command word issued to the block runs as its instruction, with the environment's move for it at hand. -/
def Obligations.StepRunsTheIssuedCommand : Prop :=
  ∀ (s : State) (w : Word) (m : ReadMove) (es : List Event) (i : Instr),
    s.events = .issue w m :: es → decode .command w = .ok i → step s = exec i { s with read := m, events := es }

/-- R166: an illegal command word sets `FAULT`, returns no `RDATA` and changes nothing else (but the model's own input fields). -/
def Obligations.IllegalCommandIsTaken : Prop :=
  ∀ (s : State) (w : Word) (m : ReadMove) (es : List Event) (r : Reject),
    s.events = .issue w m :: es → decode .command w = .error r →
      step s = .next { s with fault := true, rdata := none, read := m, events := es }

/-- R61, log entry 7: a packet header arriving as its four bytes runs as its row of the opcode table. -/
def Obligations.StepRunsTheArrivedHeader : Prop :=
  ∀ (s : State) (bs : List Byte) (es : List Event) (i : Instr),
    s.events = .arrive bs :: es → decodeWire bs = .ok i → step s = exec i { s with events := es }

/-- R31: whatever bytes arrive, a packet header or not, they are appended to `RX` in order and nothing else happens. -/
def Obligations.ArrivingBytesAreAppendedToRx : Prop :=
  ∀ (s : State) (bs : List Byte) (es : List Event),
    s.events = .arrive bs :: es → step s = .next { s with rx := s.rx ++ bs, events := es }

/-- R190, R193: the reset event, taken between operations; `RX` is untouched, and the block then accepts any command word. That the
moves still to come are untouched (`t.events = es`) is the model's choice (log entry 15). -/
def Obligations.ResetEventSetsRegistersAndTx : Prop :=
  ∀ (s : State) (es : List Event), s.events = .reset :: es →
    ∃ t, step s = .next t ∧ t.crc = 0xFFFFFFFF ∧ t.res = .none ∧ t.rtype = 0 ∧ t.rlen = 0 ∧ t.rack = 0 ∧ t.fault = false ∧
      t.tx = [] ∧ t.rx = s.rx ∧ t.events = es ∧ ∀ (w : Word) (m : ReadMove), ∃ u, perform (.issue w m) t = .next u

/-- R36: the state after reset, in the seven pieces of state the rule gives a value to; `RX` is not reset, whatever it holds. -/
def Obligations.ResetStateHoldsTheResetValues : Prop :=
  State.reset.crc = 0xFFFFFFFF ∧ State.reset.res.code = 0 ∧ State.reset.rtype = 0x00 ∧ State.reset.rlen = 0x0000 ∧
  State.reset.rack = 0x00 ∧ State.reset.fault = false ∧ State.reset.tx = [] ∧
  ∀ s : State, ∃ t, perform .reset s = .next t ∧ t.rx = s.rx

/-- The model's choice (log entry 5): with no move to come the block is idle and a step changes nothing. -/
def Obligations.IdleBlockStaysAsItIs : Prop :=
  ∀ s : State, s.events = [] → step s = .next s

/-! ### CRC engine -/

/-- R94, with its frame: every state, nothing changed but `CRC` (no `RDATA`, log entry 3). -/
def Obligations.CrcinitSetsAllOnes : Prop :=
  ∀ s : State, exec .crcinit s = .next { s with crc := 0xFFFFFFFF, rdata := none }

/-- R95, with its frame, its two corner cases and its example. -/
def Obligations.CrcbAbsorbsOneByte : Prop :=
  (∀ (s : State) (b : Byte), exec (.crcb b) s = .next { s with crc := crcStep s.crc b, rdata := none }) ∧
  (∀ c : Word, crcStep c 0x00 = c ↔ c = 0) ∧ crcStep 0xFFFFFFFF 0x01 = 0x4AC9A203

/-- R97, with its frame. -/
def Obligations.CrcrdReturnsCrc : Prop :=
  ∀ s : State, exec .crcrd s = .next { s with rdata := some s.crc }

/-- R93: the table of corner cases. -/
def Obligations.CrcCornerCases : Prop :=
  crc32 [] = 0xFFFFFFFF ∧ crc32 [0x00] = 0x4E08BFB4 ∧ crc32 [0x00, 0x00, 0x00, 0x00] = 0xC704DD7B ∧
  crc32 [0xFF, 0xFF, 0xFF, 0xFF] = 0x00000000 ∧ crc32 [0x61] = 0xE66C6494 ∧ crc32 [0x00, 0x61] = 0xA8D3BF5D ∧
  crc32 [0x31, 0x32, 0x33, 0x34, 0x35, 0x36, 0x37, 0x38, 0x39] = 0x0376E6E7 ∧
  le4 (crc32 []) = [0xFF, 0xFF, 0xFF, 0xFF] ∧
  le4 (crc32 [0x31, 0x32, 0x33, 0x34, 0x35, 0x36, 0x37, 0x38, 0x39]) = [0xE7, 0xE6, 0x76, 0x03]

/-- R91: the byte step is the procedure the rule writes out, with the rule's worked trace. -/
def Obligations.CrcStepFollowsTheProcedure : Prop :=
  (∀ (c : Word) (b : Byte),
    crcStep c b =
      (fun d : Word => if d.getLsbD 31 = true then (d <<< 1) ^^^ 0x04C11DB7 else d <<< 1)^[8]
        (c ^^^ (b.setWidth 32 <<< 24))) ∧
  (List.range 8).map (fun k => crcRounds (k + 1) (0xFFFFFFFF ^^^ ((0x01 : Byte).setWidth 32 <<< 24))) =
    [0xF93EE249, 0xF6BCD925, 0xE9B8AFFD, 0xD7B0424D, 0xABA1992D, 0x53822FED, 0xA7045FDA, 0x4AC9A203]

/-- R100: the byte step is the table-driven step, for every register value and every byte, and the table's listed entries. -/
def Obligations.CrcStepIsTableDriven : Prop :=
  (∀ (c : Word) (b : Byte), crcStep c b = (c <<< 8) ^^^ crcStep 0 (c.extractLsb' 24 8 ^^^ b)) ∧
  crcStep 0 0 = 0x00000000 ∧ crcStep 0 1 = 0x04C11DB7 ∧ crcStep 0 2 = 0x09823B6E ∧ crcStep 0 3 = 0x0D4326D9 ∧
  crcStep 0 0x80 = 0x690CE0EE ∧ crcStep 0 0xFF = 0xB1F740B4

/-- R99: the affine law on sequences of equal length, the incremental law it goes with, and the zero state. -/
def Obligations.ChecksumIsAffineOverXor : Prop :=
  (∀ a b : List Byte, a.length = b.length →
    crc32 (List.zipWith (fun x y => x ^^^ y) a b) = crc32 a ^^^ crc32 b ^^^ crc32 (List.replicate a.length 0)) ∧
  (∀ s t : List Byte, crc32 (s ++ t) = t.foldl crcStep (crc32 s)) ∧
  ∀ n : Nat, (List.replicate n (0 : Byte)).foldl crcStep 0 = 0

/-- R99, residue law: a message followed by its checksum, most significant byte first, has checksum 0; in wire order it has not, by
the rule's example. -/
def Obligations.BigEndianResidueIsZero : Prop :=
  (∀ s : List Byte,
    crc32 (s ++ [(crc32 s).extractLsb' 24 8, (crc32 s).extractLsb' 16 8, (crc32 s).extractLsb' 8 8, (crc32 s).extractLsb' 0 8]) = 0) ∧
  (let s : List Byte := [0x31, 0x32, 0x33, 0x34, 0x35, 0x36, 0x37, 0x38, 0x39]
   crc32 (s ++ le4 (crc32 s)) = 0x54453F62)

/-- R101: the checksum is the remainder of `0xFFFFFFFF * x^(8n) + M(x) * x^32` modulo the generator, over GF(2). -/
def Obligations.ChecksumIsPolynomialRemainder : Prop :=
  ∀ s : List Byte,
    let poly : (n : Nat) → BitVec n → Polynomial (ZMod 2) :=
      fun n v => ∑ k ∈ Finset.range n, if v.getLsbD k then Polynomial.X ^ k else 0
    let message : Polynomial (ZMod 2) := s.foldl (fun p b => p * Polynomial.X ^ 8 + poly 8 b) 0
    (poly 32 0xFFFFFFFF * Polynomial.X ^ (8 * s.length) + message * Polynomial.X ^ 32) %ₘ
        (Polynomial.X ^ 32 + poly 32 0x04C11DB7) =
      poly 32 (crc32 s)

/-! ### Transmit framer -/

/-- R110, with its frame. -/
def Obligations.TxbAppendsTheByte : Prop :=
  ∀ (s : State) (b : Byte), exec (.txb b) s = .next { s with tx := s.tx ++ [b], rdata := none }

/-- R111, with its frame, and that it is exactly `TXB b` followed by `CRCB b`. -/
def Obligations.TxcbAppendsAndAbsorbs : Prop :=
  ∀ (s : State) (b : Byte),
    exec (.txcb b) s = .next { s with tx := s.tx ++ [b], crc := crcStep s.crc b, rdata := none } ∧
    exec (.txcb b) s = execAll [.txb b, .crcb b] s

/-- R112, with its frame: every type and every length. -/
def Obligations.TxhdrAppendsTheHeader : Prop :=
  ∀ (s : State) (ptype : Byte) (len : Half),
    exec (.txhdr ptype len) s =
      .next { s with tx := s.tx ++ [0x5A, ptype, len.extractLsb' 0 8, len.extractLsb' 8 8], rdata := none }

/-- R113, with its frame: `LE_4(CRC)`, `CRC` keeping its value. -/
def Obligations.TxcrcAppendsCrcLittleEndian : Prop :=
  ∀ s : State,
    exec .txcrc s = .next
      { s with
        tx := s.tx ++ [s.crc.extractLsb' 0 8, s.crc.extractLsb' 8 8, s.crc.extractLsb' 16 8, s.crc.extractLsb' 24 8]
        rdata := none }

/-- R126: the bytes of a header, and their reading back by RXHDR, for every state that finds them in time. -/
def Obligations.HeaderRoundTrip : Prop :=
  ∀ (s : State) (ptype : Byte) (len : Half), ∃ (t : State) (b0 b1 b2 b3 : Byte),
    exec (.txhdr ptype len) s = .next t ∧ t.tx = s.tx ++ [b0, b1, b2, b3] ∧
    b0 = 0x5A ∧ b1 = ptype ∧ b2.toNat + 256 * b3.toNat = len.toNat ∧
    ∀ (u : State) (rest : List Byte), ptype ∈ ([0x01, 0x23, 0x45, 0x67, 0x89] : List Byte) →
      u.inTime = [b0, b1, b2, b3] ++ rest →
      ∃ u', exec .rxhdr u = .next u' ∧ u'.res = .ok ∧ u'.rtype = ptype ∧ u'.rlen = len

/-- R127: after any sequence of instructions `TX` is the concatenation of what each appended, in issue order, and a sequence of
transmit operations neither reads `RX` nor writes a receive register or `FAULT`. -/
def Obligations.TxIsTheConcatenationInIssueOrder : Prop :=
  ∀ (is : List Instr) (s : State), ∃ t, execAll is s = .next t ∧
    t.tx = s.tx ++ streamOf s.crc is ∧ t.crc = is.foldl crcAfter s.crc ∧
    ((∀ i ∈ is, emits i = true) →
      t.rx = s.rx ∧ t.res = s.res ∧ t.rtype = s.rtype ∧ t.rlen = s.rlen ∧ t.rack = s.rack ∧ t.fault = s.fault)

/-! ### Receive decoder -/

/-- R141 with R43: both answers of the read, which cover every state. The answer's form, bytes in time and bytes too late, is the
model's choice (log entry 4). -/
def Obligations.RxhdrDecodesOneHeader : Prop :=
  (∀ (s : State) (h0 h1 h2 h3 : Byte) (rest : List Byte), s.inTime = h0 :: h1 :: h2 :: h3 :: rest →
    exec .rxhdr s = .next
      { s with
        rtype := h1
        rlen := BitVec.ofNat 16 (h2.toNat + 256 * h3.toNat)
        res := if h0 ≠ 0x5A then .badSof
               else if h1 ∉ ([0x01, 0x23, 0x45, 0x67, 0x89] : List Byte) then .badType else .ok
        rx := rest ++ s.tooLate
        rdata := none }) ∧
  (∀ s : State, s.inTime.length < 4 → exec .rxhdr s = .next { s with res := .short, rx := s.tooLate, rdata := none })

/-- R143 with R43: both answers of the read, which cover every state, for whatever the ACK code is. The answer's form, bytes in time
and bytes too late, is the model's choice (log entry 4). -/
def Obligations.RxrespJudgesOneResponse : Prop :=
  (∀ (s : State) (r0 r1 r2 r3 r4 r5 r6 r7 r8 r9 r10 r11 : Byte) (rest : List Byte),
    s.inTime = [r0, r1, r2, r3, r4, r5, r6, r7, r8, r9, r10, r11] ++ rest →
    exec .rxresp s = .next
      { s with
        rtype := r1
        rlen := BitVec.ofNat 16 (r2.toNat + 256 * r3.toNat)
        rack := r4
        res := if r0 ≠ 0x5A then .badSof else if r1 ≠ 0x45 then .badType
               else if r4 ≠ Config.ackCode then .notAck else .ok
        rx := rest ++ s.tooLate
        rdata := none }) ∧
  (∀ s : State, s.inTime.length < 12 → exec .rxresp s = .next { s with res := .short, rx := s.tooLate, rdata := none })

/-- R144, R70: a response as the peer sends it, whatever its length field and reserved bytes, passes exactly when its code is the
ACK code; a NACK never does. -/
def Obligations.RxrespAcceptsExactlyTheAck : Prop :=
  ∀ (s : State) (len : Half) (ack : Byte) (reserved rest : List Byte),
    reserved.length = 7 → s.inTime = respPacket len ack reserved ++ rest →
    ∃ t, exec .rxresp s = .next t ∧ t.rx = rest ++ s.tooLate ∧ t.rack = ack ∧ t.rlen = len ∧
      (t.res = .ok ↔ ack = Config.ackCode) ∧ (ack = Config.nackCode → t.res = .notAck)

/-- R13, R43, R222: whatever bytes are to arrive, the environment can make a read `Full` once `n` are there and `Short` with any
fewer; a read can be short exactly when fewer than `n` stand in `RX`. `Full` removes the first `n` bytes; `Short` consumes all that
had arrived, fewer than `n`; bytes that come after the read stand behind what is left. The answer's form is the model's choice (log
entry 4). -/
def Obligations.EitherAnswerIsTheEnvironments : Prop :=
  ∀ (s : State) (n : Nat),
    (∀ more : List Byte, n ≤ (s.rx ++ more).length →
      ∃ m t, (s.setRead m).memRead n = (.full ((s.rx ++ more).take n), t) ∧ t.rx = (s.rx ++ more).drop n) ∧
    (∀ more : List Byte, (s.rx ++ more).length < n →
      ∃ m t, (s.setRead m).memRead n = (.short (s.rx ++ more), t) ∧ t.rx = []) ∧
    ((∃ m bs t, (s.setRead m).memRead n = (.short bs, t)) ↔ s.rx.length < n) ∧
    (∀ bs t, s.memRead n = (.full bs, t) → bs.length = n ∧ s.rx ++ s.read.late = bs ++ t.rx) ∧
    (∀ bs t, s.memRead n = (.short bs, t) →
      bs.length < n ∧ s.rx <+: bs ∧ t.rx = (if s.read.expires then s.read.late else []) ∧ s.rx ++ s.read.late = bs ++ t.rx)

/-- R147: what neither receive operation does, whatever the answer: no more than 4 or 12 bytes are gone, exactly that many after a
full read, and they are gone from the front. -/
def Obligations.DecoderTouchesOnlyItsRegisters : Prop :=
  ∀ (s : State) (i : Instr) (n : Nat), (i = .rxhdr ∧ n = 4 ∨ i = .rxresp ∧ n = 12) →
    ∃ t, exec i s = .next t ∧ t.tx = s.tx ∧ t.crc = s.crc ∧ t.fault = s.fault ∧ t.events = s.events ∧
      (i = .rxhdr → t.rack = s.rack) ∧ t.rx <:+ s.rx ++ s.read.late ∧
      (t.res = .short →
        t.rtype = s.rtype ∧ t.rlen = s.rlen ∧ t.rack = s.rack ∧ (s.rx ++ s.read.late).length < n + t.rx.length) ∧
      (t.res ≠ .short → (s.rx ++ s.read.late).length = n + t.rx.length)

/-! ### Status operations -/

/-- R170, with its frame: the STATUS word as a number. -/
def Obligations.RdstReturnsStatus : Prop :=
  ∀ s : State, exec .rdst s = .next { s with rdata := some (BitVec.ofNat 32 (s.res.code.toNat + 256 * s.fault.toNat)) }

/-- R171, with its frame: the RXINFO word as a number. -/
def Obligations.RdrxReturnsRxinfo : Prop :=
  ∀ s : State,
    exec .rdrx s = .next { s with rdata := some (BitVec.ofNat 32 (s.rack.toNat + 256 * s.rtype.toNat + 65536 * s.rlen.toNat)) }

/-- R23: the numeric codes. -/
def Obligations.ResultCodes : Prop :=
  Res.none.code = 0 ∧ Res.ok.code = 1 ∧ Res.short.code = 2 ∧ Res.badSof.code = 3 ∧ Res.badType.code = 4 ∧ Res.notAck.code = 5

/-- R28, R29: what RDST and RDRX return, and the fields of the two packed words, the STATUS word's zero bits included. -/
def Obligations.PackedWordsHoldTheirFields : Prop :=
  ∀ s : State,
    (∃ t, exec .rdst s = .next t ∧ t.rdata = some (statusWord s)) ∧
    (∃ t, exec .rdrx s = .next t ∧ t.rdata = some (rxinfoWord s)) ∧
    (statusWord s).extractLsb' 0 3 = s.res.code ∧ (statusWord s).extractLsb' 3 5 = 0 ∧
    (statusWord s).getLsbD 8 = s.fault ∧ (statusWord s).extractLsb' 9 23 = 0 ∧
    (rxinfoWord s).extractLsb' 0 8 = s.rack ∧ (rxinfoWord s).extractLsb' 8 8 = s.rtype ∧
    (rxinfoWord s).extractLsb' 16 16 = s.rlen

/-! ### Packet headers on the link -/

/-- R61, R62, R31, with the frame; the meaning is the model's reading of the `WIRE.*` rows (log entry 7): the header's four bytes join
the end of `RX` in wire order. -/
def Obligations.WireHeadersJoinRx : Prop :=
  ∀ (s : State) (len : Half) (i : Instr) (code : Byte),
    (i, code) ∈ ([(.wireStart len, 0x01), (.wireStop len, 0x23), (.wireResp len, 0x45), (.wireConf len, 0x67),
      (.wireData len, 0x89)] : List (Instr × Byte)) →
    exec i s = .next { s with rx := s.rx ++ [0x5A, code, len.extractLsb' 0 8, len.extractLsb' 8 8] }

/-! ### Whole-machine rules -/

/-- R160, R166: no operation, illegal word, failed read, arrival or reset stops the block. That the block with no move to come has an
idle step, which is a next state too, is the model's choice (log entry 5). -/
def Obligations.EveryStepCompletes : Prop :=
  ∀ s : State, ∃ t, step s = .next t

/-- R27: `FAULT` is set by an illegal command word alone and cleared by reset alone. -/
def Obligations.FaultIsStickyUntilReset : Prop :=
  ∀ s t : State, step s = .next t →
    (s.fault = true → t.fault = false → ∃ es, s.events = .reset :: es) ∧
    (s.fault = false → t.fault = true → ∃ w m es r, s.events = .issue w m :: es ∧ decode .command w = .error r)

/-- R30, R191: only reset takes anything from `TX`, and what is appended comes from a transmit operation. -/
def Obligations.TxOnlyGrows : Prop :=
  ∀ s t : State, step s = .next t →
    (∃ es, s.events = .reset :: es) ∨ t.tx = s.tx ∨
    (∃ w m es i, s.events = .issue w m :: es ∧ decode .command w = .ok i ∧ emits i = true ∧
      t.tx = s.tx ++ appendedBy s.crc i)

/-- R20, the column "Written by": what a step that changes a register was. -/
def Obligations.RegistersHaveTheirWriters : Prop :=
  ∀ s t : State, step s = .next t → (∃ es, s.events = .reset :: es) ∨
    ((t.crc ≠ s.crc → ∃ w m es i, s.events = .issue w m :: es ∧ decode .command w = .ok i ∧
        (i = .crcinit ∨ (∃ b, i = .crcb b) ∨ ∃ b, i = .txcb b)) ∧
     (t.res ≠ s.res ∨ t.rtype ≠ s.rtype ∨ t.rlen ≠ s.rlen → ∃ w m es i, s.events = .issue w m :: es ∧
        decode .command w = .ok i ∧ (i = .rxhdr ∨ i = .rxresp)) ∧
     (t.rack ≠ s.rack → ∃ w m es, s.events = .issue w m :: es ∧ decode .command w = .ok .rxresp))

/-- R31, R57: `RX` grows at its end by arrivals and is shortened from its front by the two receive operations, by nothing else. -/
def Obligations.RxLosesBytesOnlyToReceiveOperations : Prop :=
  ∀ s t : State, step s = .next t →
    (t.rx = s.rx) ∨ (∃ bs es, s.events = .arrive bs :: es ∧ t.rx = s.rx ++ bs) ∨
    (∃ w m es i, s.events = .issue w m :: es ∧ decode .command w = .ok i ∧ (i = .rxhdr ∨ i = .rxresp) ∧
      t.rx <:+ s.rx ++ m.late)

/-- R33: no operation's behaviour depends on `RES` or `FAULT`; RDST alone returns them. -/
def Obligations.StatusSteersNothing : Prop :=
  ∀ (i : Instr) (s : State) (r : Res) (f : Bool), ∃ t u,
    exec i s = .next t ∧ exec i { s with res := r, fault := f } = .next u ∧
    u.crc = t.crc ∧ u.rtype = t.rtype ∧ u.rlen = t.rlen ∧ u.rack = t.rack ∧ u.tx = t.tx ∧ u.rx = t.rx ∧
    u.read = t.read ∧ u.events = t.events ∧ t.fault = s.fault ∧ u.fault = f ∧
    (if i = .rxhdr ∨ i = .rxresp then u.res = t.res else t.res = s.res ∧ u.res = r) ∧
    (i ≠ .rdst → u.rdata = t.rdata)

/-- R161: what the receive registers say of each other is kept by every step, from every state that meets it. -/
def Obligations.EveryStepKeepsTheReceiveRecord : Prop :=
  ∀ s t : State, ReceiveRecord s → step s = .next t → ReceiveRecord t

/-- The receive record holds after reset (R36). -/
def Obligations.ReceiveRecordHoldsAtReset : Prop := ReceiveRecord State.reset

/-! ### Pseudo-operations -/

/-- R96: the whole effect of CHECKSUM and its number of operations, for every sequence and every state. -/
def Obligations.ChecksumLeavesAndReturnsTheCrc : Prop :=
  ∀ (bs : List Byte) (s : State),
    execAll (checksum bs) s = .next { s with crc := crc32 bs, rdata := some (crc32 bs) } ∧
    (checksum bs).length = 1 + bs.length + 1

/-- R120, R121: TXW and TXCW append `LE_4(w)`; only TXCW absorbs the four bytes, in the same order. -/
def Obligations.WordsGoOutLittleEndian : Prop :=
  ∀ (w : Word) (s : State),
    execAll (txw w) s = .next { s with tx := s.tx ++ le4 w, rdata := none } ∧
    execAll (txcw w) s = .next { s with tx := s.tx ++ le4 w, crc := crcFold s.crc (le4 w), rdata := none }

/-- R122, R123: the nine operations of START and of STOP append their twelve bytes and leave the rest. -/
def Obligations.StartAndStopPackets : Prop :=
  ∀ s : State,
    execAll (opsOf pktStart) s =
      .next { s with tx := s.tx ++ [0x5A, 0x01, 0x04, 0x00, 0, 0, 0, 0, 0, 0, 0, 0], rdata := none } ∧
    execAll (opsOf pktStop) s =
      .next { s with tx := s.tx ++ [0x5A, 0x23, 0x04, 0x00, 0, 0, 0, 0, 0, 0, 0, 0], rdata := none } ∧
    pktStart = [.op (.txhdr 0x01 4), .settle] ++ List.replicate 8 (.op (.txb 0)) ∧
    pktStop = [.op (.txhdr 0x23 4), .settle] ++ List.replicate 8 (.op (.txb 0)) ∧
    (opsOf pktStart).length = 9 ∧ (opsOf pktStop).length = 9

/-- R124: the fifteen operations of CONF append 20 bytes with a length field of 12, and leave the self-checksum in `CRC`. -/
def Obligations.ConfPacketWithItsSelfChecksum : Prop :=
  ∀ (v : VersionTag) (n c : Word) (s : State),
    let body := [v.major, v.minor, v.patch, v.fourth] ++ le4 n ++ le4 c
    execAll (opsOf (pktConf v n c)) s =
      .next
        { s with
          tx := s.tx ++ [0x5A, 0x67, 0x0C, 0x00] ++ body ++ le4 (crc32 body)
          crc := crc32 body
          rdata := none } ∧
    body.length = 12 ∧ (opsOf (pktConf v n c)).length = 15 ∧
    (pktConf v n c).take 3 = [.op (.txhdr 0x67 12), .settle, .op .crcinit]

/-- R125: DATA for every chunk up to 1024 bytes, the empty one included; a longer one is refused. -/
def Obligations.DataPacketWithItsChecksum : Prop :=
  ∀ (chunk : List Byte) (s : State),
    (chunk.length ≤ 1024 → ∃ acts, pktData chunk = .ok acts ∧ (opsOf acts).length = chunk.length + 3 ∧
      acts.take 3 = [.op (.txhdr 0x89 (BitVec.ofNat 16 chunk.length)), .settle, .op .crcinit] ∧
      execAll (opsOf acts) s =
        .next
          { s with
            tx := s.tx ++ [0x5A, 0x89] ++ le2 (BitVec.ofNat 16 chunk.length) ++ chunk ++ le4 (crc32 chunk)
            crc := crc32 chunk
            rdata := none }) ∧
    (1024 < chunk.length → pktData chunk = .error (.chunkTooLong chunk.length))

/-- R146: after RXRESP and RDST the host's test passes exactly when RXRESP reported `OK`. -/
def Obligations.AwaitAckTestsTheResult : Prop :=
  ∀ s : State, ∃ t u st, exec .rxresp s = .next t ∧ execAll (opsOf awaitAck) s = .next u ∧ u.rdata = some st ∧
    (ackedBy st = true ↔ t.res = .ok)

/-! ### The host's sequence -/

/-- R205: `K = ceil(N/1024)` chunks, each of 1 to 1024 bytes, whose concatenation is the image. -/
def Obligations.ChunksRebuildTheImage : Prop :=
  ∀ image : List Byte,
    (chunks image).flatten = image ∧ (chunks image).length = (image.length + 1023) / 1024 ∧
    (∀ c ∈ chunks image, 1 ≤ c.length ∧ c.length ≤ 1024) ∧
    (∀ k, k + 1 < (chunks image).length → ∃ c, (chunks image)[k]? = some c ∧ c.length = 1024)

/-- R164: the error kind of each failing verdict, from the words the host reads. -/
def Obligations.FailureKindsFollowTheVerdict : Prop :=
  ∀ s : State,
    (s.res = .short → failureKind (statusWord s) (rxinfoWord s) = .transportError) ∧
    (s.res = .badSof → failureKind (statusWord s) (rxinfoWord s) = .protocolViolation) ∧
    (s.res = .badType → failureKind (statusWord s) (rxinfoWord s) = .protocolViolation) ∧
    (s.res = .notAck → s.rack = Config.nackCode → failureKind (statusWord s) (rxinfoWord s) = .deviceRejected) ∧
    (s.res = .notAck → s.rack ≠ Config.nackCode → failureKind (statusWord s) (rxinfoWord s) = .protocolViolation)

/-- R214: in each of the four packets the settle delay stands between the header and the next byte. -/
def Obligations.EveryHeaderSettles : Prop :=
  settled false pktStart = true ∧ settled false pktStop = true ∧
  (∀ (v : VersionTag) (n c : Word), settled false (pktConf v n c) = true) ∧
  (∀ chunk : List Byte, settled false (dataActions chunk) = true)

/-- R200, R216: with its plan done, an awaiting phase is left for the next phase exactly on an ACK, and for `Failed` otherwise. -/
def Obligations.GatesOpenOnlyOnAck : Prop :=
  ∀ (m : HostMove) (t : Transfer), t.plan = [] →
    ((t.phase = .awaitStartAck ∨ t.phase = .awaitConfigAck ∨ (∃ k, t.phase = .awaitChunkAck k) ∨ t.phase = .awaitStopAck) →
      t.acked = false → ∃ r, (hostStep m t).phase = .failed r) ∧
    (t.acked = true →
      (t.phase = .awaitStartAck → (hostStep m t).phase = .awaitConfigAck) ∧
      (t.phase = .awaitConfigAck →
        (hostStep m t).phase = if t.image = [] then .awaitStopAck else .sendingChunk 0) ∧
      (∀ k, t.phase = .awaitChunkAck k →
        (hostStep m t).phase = if (k + 1) * 1024 < t.image.length then .sendingChunk (k + 1) else .awaitStopAck) ∧
      (t.phase = .awaitStopAck → (hostStep m t).phase = .done))

/-- R211: a write the transport fails ends the transfer at once. That the failing operation appends none of its bytes is the model's
choice (log entry 12); what a reset just before it does to `TX` is R190's. -/
def Obligations.FailedWriteEndsTheTransfer : Prop :=
  ∀ (m : HostMove) (t : Transfer) (i : Instr) (rest : List HostAction),
    t.phase ≠ .idle → t.phase ≠ .done → (∀ r, t.phase ≠ .failed r) →
    t.plan = .op i :: rest → emits i = true → m.writeFails = true →
      (hostStep m t).phase = .failed .transportError ∧ (hostStep m t).block.tx = if m.resets then [] else t.block.tx

/-- R210: from the action at which a transfer fails, nothing more is ever emitted and it stays failed, under every environment; a
reset empties `TX` (R190). That an action failed by the transport appends none of its bytes is the model's choice (log entry 12). -/
def Obligations.NothingIsEmittedAfterFailure : Prop :=
  ∀ (t : Transfer) (m : HostMove) (ms : List HostMove) (r : ErrorKind),
    (hostStep m t).phase = .failed r →
      (hostRun ms (hostStep m t)).phase = .failed r ∧
      (hostRun ms (hostStep m t)).block.tx = if (m :: ms).any HostMove.resets then [] else t.block.tx

/-- R207: whatever bytes the environment sent and whenever, a transfer that reached `Done` without a reset inside (log entry 10)
appended exactly START, CONF, the DATA packets and STOP; the final `CRC` and `RES`; `FAULT` as it was. -/
def Obligations.CompletedTransferIsByteExact : Prop :=
  ∀ (image : List Byte) (v : VersionTag) (b : State) (t : Transfer) (ms : List HostMove),
    beginTransfer image v b = .ok t → (∀ m ∈ ms, m.resets = false) → (hostRun ms t).phase = .done →
      (hostRun ms t).block.tx = b.tx ++ transferBytes image v ∧
      (transferBytes image v).length = 44 + 8 * chunkCount image.length + image.length ∧
      (hostRun ms t).block.res = .ok ∧ (hostRun ms t).block.fault = b.fault ∧
      (hostRun ms t).block.crc =
        ((chunks image).getLast?.map crc32).getD (crc32 (confBody v (BitVec.ofNat 32 image.length) (crc32 image)))

/-- R221: under every environment, resets inside the transfer among its moves (log entry 10), a transfer ends, in `Done` or in `Failed`,
within a number of actions that the image alone fixes. -/
def Obligations.EveryTransferEnds : Prop :=
  ∀ image : List Byte, ∃ n, ∀ (v : VersionTag) (b : State) (t : Transfer), beginTransfer image v b = .ok t →
    ∀ ms : List HostMove, n ≤ ms.length →
      (hostRun ms t).phase = .done ∨ ∃ r, (hostRun ms t).phase = .failed r
end

