-- ==== Sys2Proof/Laws/Crc.lean ====
section
/-! SUPPORT. The CRC is linear over XOR, round by round (spec/40_crc.md R91, R98): what the laws of R99 rest on. -/

namespace Sys2Proof.Machine

/-- A round is linear. -/
theorem crcRound_xor (a b : Word) : crcRound (a ^^^ b) = crcRound a ^^^ crcRound b := by
  simp only [crcRound, BitVec.getLsbD_xor, BitVec.shiftLeft_xor_distrib]
  cases a.getLsbD 31 <;> cases b.getLsbD 31 <;> simp <;> ac_nf
  simp

/-- `n` rounds are linear. -/
theorem crcRounds_xor (n : Nat) (a b : Word) : crcRounds n (a ^^^ b) = crcRounds n a ^^^ crcRounds n b := by
  induction n generalizing a b with
  | zero => rfl
  | succ n ih => rw [crcRounds, crcRound_xor, ih]; rfl

/-- A round from 0 stays at 0. -/
@[simp] theorem crcRounds_zero (n : Nat) : crcRounds n 0 = 0 := by
  induction n with
  | zero => rfl
  | succ n ih =>
    have h : crcRound 0 = 0 := by decide
    rw [crcRounds, h, ih]

/-- The byte step is linear in register and byte together. -/
theorem crcStep_xor (c d : Word) (a b : Byte) : crcStep (c ^^^ d) (a ^^^ b) = crcStep c a ^^^ crcStep d b := by
  rw [crcStep, crcStep, crcStep, ← crcRounds_xor, BitVec.setWidth_xor, BitVec.shiftLeft_xor_distrib]
  have h : ∀ x y : Word, c ^^^ d ^^^ (x ^^^ y) = c ^^^ x ^^^ (d ^^^ y) := by
    intro x y
    rw [BitVec.xor_assoc, BitVec.xor_assoc, ← BitVec.xor_assoc d, BitVec.xor_comm d x, BitVec.xor_assoc x]
  rw [h]

@[simp] theorem crcFold_nil (c : Word) : crcFold c [] = c := rfl

@[simp] theorem crcFold_cons (c : Word) (b : Byte) (s : List Byte) : crcFold c (b :: s) = crcFold (crcStep c b) s := rfl

/-- R99, incremental: going on from where a sequence left off. -/
theorem crcFold_append (c : Word) (s t : List Byte) : crcFold c (s ++ t) = crcFold (crcFold c s) t := by
  simp [crcFold, List.foldl_append]

/-- R99, incremental: the checksum of a longer sequence goes on from the checksum of its beginning. -/
theorem crc32_append (s t : List Byte) : crc32 (s ++ t) = crcFold (crc32 s) t := crcFold_append _ s t

/-- R99, zero state: a zero byte leaves a zero register at zero. -/
@[simp] theorem crcStep_zero_zero : crcStep 0 0 = 0 := by decide

/-- R99, zero state: zero bytes leave a zero register at zero. -/
theorem crcFold_zero_zeros (n : Nat) : crcFold 0 (List.replicate n 0) = 0 := by
  induction n with
  | zero => rfl
  | succ n ih => rw [List.replicate_succ, crcFold_cons, crcStep_zero_zero, ih]

end Sys2Proof.Machine
end

