-- ==== Sys2Proof/Laws/Pseudo.lean ====
section
/-! SUPPORT. Running sequences of operations: appended sequences, and the three byte-wise runs every pseudo-operation is made of. -/

namespace Sys2Proof.Machine

/-- A sequence after a sequence that ends in a next state. -/
theorem execAll_append {a : List Instr} {s t : State} (h : execAll a s = .next t) (b : List Instr) :
    execAll (a ++ b) s = execAll b t := by
  induction a generalizing s with
  | nil => cases h; rfl
  | cons i rest ih =>
    simp only [List.cons_append, execAll] at h ⊢
    cases hi : exec i s with
    | next u => rw [hi] at h; exact ih h
    | fault r => rw [hi] at h; cases h
    | refused r => rw [hi] at h; cases h

/-- One operation at the head of a sequence. -/
theorem execAll_cons {i : Instr} {s t : State} (h : exec i s = .next t) (b : List Instr) :
    execAll (i :: b) s = execAll b t := by simp [execAll, h]

/-- `CRCB` of each byte. -/
theorem execAll_crcb (bs : List Byte) {s : State} (hs : s.rdata = none) :
    execAll (bs.map .crcb) s = .next { s with crc := crcFold s.crc bs } := by
  induction bs generalizing s with
  | nil => rfl
  | cons b bs ih =>
    have h : exec (.crcb b) s = .next { s with crc := crcStep s.crc b } := by
      simp only [exec, execCrcb, State.returns, State.setCrc, hs]
    rw [List.map_cons, execAll_cons h, ih (by exact hs), crcFold_cons]

/-- `TXB` of each byte. -/
theorem execAll_txb (bs : List Byte) {s : State} (hs : s.rdata = none) :
    execAll (bs.map .txb) s = .next { s with tx := s.tx ++ bs } := by
  induction bs generalizing s with
  | nil => simp [execAll]
  | cons b bs ih =>
    have h : exec (.txb b) s = .next { s with tx := s.tx ++ [b] } := by
      simp only [exec, execTxb, State.returns, State.emit, hs]
    rw [List.map_cons, execAll_cons h, ih (by exact hs), List.append_assoc, List.singleton_append]

/-- `TXCB` of each byte. -/
theorem execAll_txcb (bs : List Byte) {s : State} (hs : s.rdata = none) :
    execAll (bs.map .txcb) s = .next { s with tx := s.tx ++ bs, crc := crcFold s.crc bs } := by
  induction bs generalizing s with
  | nil => simp [execAll]
  | cons b bs ih =>
    have h : exec (.txcb b) s = .next { s with tx := s.tx ++ [b], crc := crcStep s.crc b } := by
      simp only [exec, execTxcb, State.returns, State.emit, State.setCrc, hs]
    rw [List.map_cons, execAll_cons h, ih (by exact hs), crcFold_cons, List.append_assoc, List.singleton_append]

/-- The operations of a sequence that has no waits. -/
@[simp] theorem opsOf_map_op (is : List Instr) : opsOf (is.map .op) = is := by
  induction is with
  | nil => rfl
  | cons i rest ih => rw [List.map_cons, opsOf, ih]

/-- The operations of two sequences of actions. -/
@[simp] theorem opsOf_append (a b : List HostAction) : opsOf (a ++ b) = opsOf a ++ opsOf b := by
  induction a with
  | nil => rfl
  | cons x rest ih => cases x <;> simp [opsOf, ih]

end Sys2Proof.Machine
end

