-- ==== Sys2Proof/Laws/Encoding.lean ====
section
/-! SUPPORT. The fields of the words the encoder builds (spec/30_encoding.md R61, R74) and of words assembled from bytes (R72), each
read back as it was put in. -/

namespace Sys2Proof

@[simp] theorem opField_commandWord (op : BitVec 4) (b : Byte) : opField (commandWord op b) = op := by
  apply BitVec.eq_of_getLsbD_eq
  intro j hj
  simp only [opField, commandWord, BitVec.getLsbD_extractLsb', BitVec.getLsbD_append]
  interval_cases j <;> simp

@[simp] theorem mbzField_commandWord (op : BitVec 4) (b : Byte) : mbzField (commandWord op b) = 0 := by
  apply BitVec.eq_of_getLsbD_eq
  intro j hj
  simp only [mbzField, commandWord, BitVec.getLsbD_extractLsb', BitVec.getLsbD_append]
  interval_cases j <;> simp

@[simp] theorem operandOfB_commandWord (op : BitVec 4) (b : Byte) : (commandWord op b).extractLsb' 0 8 = b := by
  apply BitVec.eq_of_getLsbD_eq
  intro j hj
  simp only [commandWord, BitVec.getLsbD_extractLsb', BitVec.getLsbD_append]
  interval_cases j <;> simp

@[simp] theorem zeroOfB_commandWord (op : BitVec 4) (b : Byte) : (commandWord op b).extractLsb' 8 16 = 0 := by
  apply BitVec.eq_of_getLsbD_eq
  intro j hj
  simp only [commandWord, BitVec.getLsbD_extractLsb', BitVec.getLsbD_append]
  interval_cases j <;> simp

@[simp] theorem opField_txhdrWord (ptype : Byte) (len : Half) : opField (txhdrWord ptype len) = 0x6 := by
  apply BitVec.eq_of_getLsbD_eq
  intro j hj
  simp only [txhdrWord, opField, BitVec.getLsbD_extractLsb', BitVec.getLsbD_append]
  interval_cases j <;> simp

@[simp] theorem mbzField_txhdrWord (ptype : Byte) (len : Half) : mbzField (txhdrWord ptype len) = 0 := by
  apply BitVec.eq_of_getLsbD_eq
  intro j hj
  simp only [txhdrWord, mbzField, BitVec.getLsbD_extractLsb', BitVec.getLsbD_append]
  interval_cases j <;> simp

@[simp] theorem type_txhdrWord (ptype : Byte) (len : Half) :
    (txhdrWord ptype len).extractLsb' 0 8 = ptype := by
  apply BitVec.eq_of_getLsbD_eq
  intro j hj
  simp only [txhdrWord, BitVec.getLsbD_extractLsb', BitVec.getLsbD_append]
  interval_cases j <;> simp

@[simp] theorem len_txhdrWord (ptype : Byte) (len : Half) :
    (txhdrWord ptype len).extractLsb' 8 16 = len := by
  apply BitVec.eq_of_getLsbD_eq
  intro j hj
  simp only [txhdrWord, BitVec.getLsbD_extractLsb', BitVec.getLsbD_append]
  interval_cases j <;> simp

@[simp] theorem sof_headerWord (ptype : Byte) (len : Half) : (headerWord ptype len).extractLsb' 0 8 = Config.sof := by
  apply BitVec.eq_of_getLsbD_eq
  intro j hj
  simp only [headerWord, BitVec.getLsbD_extractLsb', BitVec.getLsbD_append]
  interval_cases j <;> simp

@[simp] theorem type_headerWord (ptype : Byte) (len : Half) : (headerWord ptype len).extractLsb' 8 8 = ptype := by
  apply BitVec.eq_of_getLsbD_eq
  intro j hj
  simp only [headerWord, BitVec.getLsbD_extractLsb', BitVec.getLsbD_append]
  interval_cases j <;> simp

@[simp] theorem len_headerWord (ptype : Byte) (len : Half) : (headerWord ptype len).extractLsb' 16 16 = len := by
  apply BitVec.eq_of_getLsbD_eq
  intro j hj
  simp only [headerWord, BitVec.getLsbD_extractLsb', BitVec.getLsbD_append]
  interval_cases j <;> simp

/-- A word is its four fields of format `B`. -/
theorem word_eq_fields (w : Word) :
    w = w.extractLsb' 28 4 ++ w.extractLsb' 24 4 ++ w.extractLsb' 8 16 ++ w.extractLsb' 0 8 := by
  have h : ∀ j < 32, w.getLsbD j =
      (w.extractLsb' 28 4 ++ w.extractLsb' 24 4 ++ w.extractLsb' 8 16 ++ w.extractLsb' 0 8).getLsbD j := by
    intro j hj
    simp only [BitVec.getLsbD_append, BitVec.getLsbD_extractLsb']
    split
    · simp [*]
    split
    · rw [show 8 + (j - 8) = j by omega]; simp [*]
    split
    · rw [show 24 + (j - 8 - 16) = j by omega]; simp [*]
    · rw [show 28 + (j - 8 - 16 - 4) = j by omega]
      have : j - 8 - 16 - 4 < 4 := by omega
      simp [this]
  exact BitVec.eq_of_getLsbD_eq h

/-- A word is its three fields of format `HDR`. -/
theorem word_eq_header (w : Word) : w = w.extractLsb' 16 16 ++ w.extractLsb' 8 8 ++ w.extractLsb' 0 8 := by
  have h : ∀ j < 32, w.getLsbD j = (w.extractLsb' 16 16 ++ w.extractLsb' 8 8 ++ w.extractLsb' 0 8).getLsbD j := by
    intro j hj
    simp only [BitVec.getLsbD_append, BitVec.getLsbD_extractLsb']
    split
    · simp [*]
    split
    · rw [show 8 + (j - 8) = j by omega]; simp [*]
    · rw [show 16 + (j - 8 - 8) = j by omega]
      have : j - 8 - 8 < 16 := by omega
      simp [this]
  exact BitVec.eq_of_getLsbD_eq h

/-- The bytes of a word assembled from four bytes. -/
theorem wordOfBytes_fields (b0 b1 b2 b3 : Byte) :
    (wordOfBytes b0 b1 b2 b3).extractLsb' 0 8 = b0 ∧ (wordOfBytes b0 b1 b2 b3).extractLsb' 8 8 = b1 ∧
      (wordOfBytes b0 b1 b2 b3).extractLsb' 16 16 = b3 ++ b2 := by
  refine ⟨?_, ?_, ?_⟩ <;> apply BitVec.eq_of_getLsbD_eq <;> intro j hj <;>
    simp only [wordOfBytes, BitVec.getLsbD_extractLsb', BitVec.getLsbD_append] <;> interval_cases j <;> simp

namespace Machine

/-- R72: `unLE` of two bytes as a number. -/
theorem unLe2_toNat (lo hi : Byte) : (unLe2 lo hi).toNat = lo.toNat + 256 * hi.toNat := by
  have := lo.isLt
  simp only [unLe2, BitVec.toNat_append, Nat.shiftLeft_eq]
  rw [← Nat.shiftLeft_eq, ← Nat.shiftLeft_add_eq_or_of_lt this, Nat.shiftLeft_eq]
  omega

/-- R72: the two bytes of a length, as numbers. -/
theorem le2_toNat (v : Half) : (v.extractLsb' 0 8).toNat + 256 * (v.extractLsb' 8 8).toNat = v.toNat := by
  have := v.isLt
  simp only [BitVec.extractLsb'_toNat, Nat.shiftRight_eq_div_pow]
  omega

/-- R126: a length's bytes read back give the length. -/
@[simp] theorem unLe2_le2 (v : Half) : unLe2 (v.extractLsb' 0 8) (v.extractLsb' 8 8) = v := by
  apply BitVec.eq_of_toNat_eq
  rw [unLe2_toNat, le2_toNat]

/-- The bytes of `LE_2` of an assembled length. -/
@[simp] theorem le2_unLe2 (lo hi : Byte) : le2 (unLe2 lo hi) = [lo, hi] := by
  have h0 : (unLe2 lo hi).extractLsb' 0 8 = lo := by
    apply BitVec.eq_of_getLsbD_eq
    intro j hj
    simp only [unLe2, BitVec.getLsbD_extractLsb', BitVec.getLsbD_append]
    interval_cases j <;> simp
  have h1 : (unLe2 lo hi).extractLsb' 8 8 = hi := by
    apply BitVec.eq_of_getLsbD_eq
    intro j hj
    simp only [unLe2, BitVec.getLsbD_extractLsb', BitVec.getLsbD_append]
    interval_cases j <;> simp
  simp [le2, h0, h1]

@[simp] theorem le2_length (v : Half) : (le2 v).length = 2 := rfl

@[simp] theorem le4_length (v : Word) : (le4 v).length = 4 := rfl

@[simp] theorem headerBytes_length (ptype : Byte) (len : Half) : (headerBytes ptype len).length = 4 := rfl

end Machine

end Sys2Proof
end

