-- ==== Sys2Proof/Laws/State.lean ====
section
/-! SUPPORT. One lemma per field per update of State, each true by rfl, so that no later proof unfolds a record update. -/

namespace Sys2Proof.Machine

variable (s : State)

@[simp] theorem State.setCrc_crc (c : Word) : (s.setCrc c).crc = c := rfl
@[simp] theorem State.setCrc_res (c : Word) : (s.setCrc c).res = s.res := rfl
@[simp] theorem State.setCrc_rtype (c : Word) : (s.setCrc c).rtype = s.rtype := rfl
@[simp] theorem State.setCrc_rlen (c : Word) : (s.setCrc c).rlen = s.rlen := rfl
@[simp] theorem State.setCrc_rack (c : Word) : (s.setCrc c).rack = s.rack := rfl
@[simp] theorem State.setCrc_fault (c : Word) : (s.setCrc c).fault = s.fault := rfl
@[simp] theorem State.setCrc_tx (c : Word) : (s.setCrc c).tx = s.tx := rfl
@[simp] theorem State.setCrc_rx (c : Word) : (s.setCrc c).rx = s.rx := rfl
@[simp] theorem State.setCrc_rdata (c : Word) : (s.setCrc c).rdata = s.rdata := rfl
@[simp] theorem State.setCrc_read (c : Word) : (s.setCrc c).read = s.read := rfl
@[simp] theorem State.setCrc_events (c : Word) : (s.setCrc c).events = s.events := rfl

@[simp] theorem State.setRes_crc (r : Res) : (s.setRes r).crc = s.crc := rfl
@[simp] theorem State.setRes_res (r : Res) : (s.setRes r).res = r := rfl
@[simp] theorem State.setRes_rtype (r : Res) : (s.setRes r).rtype = s.rtype := rfl
@[simp] theorem State.setRes_rlen (r : Res) : (s.setRes r).rlen = s.rlen := rfl
@[simp] theorem State.setRes_rack (r : Res) : (s.setRes r).rack = s.rack := rfl
@[simp] theorem State.setRes_fault (r : Res) : (s.setRes r).fault = s.fault := rfl
@[simp] theorem State.setRes_tx (r : Res) : (s.setRes r).tx = s.tx := rfl
@[simp] theorem State.setRes_rx (r : Res) : (s.setRes r).rx = s.rx := rfl
@[simp] theorem State.setRes_rdata (r : Res) : (s.setRes r).rdata = s.rdata := rfl
@[simp] theorem State.setRes_read (r : Res) : (s.setRes r).read = s.read := rfl
@[simp] theorem State.setRes_events (r : Res) : (s.setRes r).events = s.events := rfl

@[simp] theorem State.setHeader_crc (t : Byte) (n : Half) : (s.setHeader t n).crc = s.crc := rfl
@[simp] theorem State.setHeader_res (t : Byte) (n : Half) : (s.setHeader t n).res = s.res := rfl
@[simp] theorem State.setHeader_rtype (t : Byte) (n : Half) : (s.setHeader t n).rtype = t := rfl
@[simp] theorem State.setHeader_rlen (t : Byte) (n : Half) : (s.setHeader t n).rlen = n := rfl
@[simp] theorem State.setHeader_rack (t : Byte) (n : Half) : (s.setHeader t n).rack = s.rack := rfl
@[simp] theorem State.setHeader_fault (t : Byte) (n : Half) : (s.setHeader t n).fault = s.fault := rfl
@[simp] theorem State.setHeader_tx (t : Byte) (n : Half) : (s.setHeader t n).tx = s.tx := rfl
@[simp] theorem State.setHeader_rx (t : Byte) (n : Half) : (s.setHeader t n).rx = s.rx := rfl
@[simp] theorem State.setHeader_rdata (t : Byte) (n : Half) : (s.setHeader t n).rdata = s.rdata := rfl
@[simp] theorem State.setHeader_read (t : Byte) (n : Half) : (s.setHeader t n).read = s.read := rfl
@[simp] theorem State.setHeader_events (t : Byte) (n : Half) : (s.setHeader t n).events = s.events := rfl

@[simp] theorem State.setAck_crc (a : Byte) : (s.setAck a).crc = s.crc := rfl
@[simp] theorem State.setAck_res (a : Byte) : (s.setAck a).res = s.res := rfl
@[simp] theorem State.setAck_rtype (a : Byte) : (s.setAck a).rtype = s.rtype := rfl
@[simp] theorem State.setAck_rlen (a : Byte) : (s.setAck a).rlen = s.rlen := rfl
@[simp] theorem State.setAck_rack (a : Byte) : (s.setAck a).rack = a := rfl
@[simp] theorem State.setAck_fault (a : Byte) : (s.setAck a).fault = s.fault := rfl
@[simp] theorem State.setAck_tx (a : Byte) : (s.setAck a).tx = s.tx := rfl
@[simp] theorem State.setAck_rx (a : Byte) : (s.setAck a).rx = s.rx := rfl
@[simp] theorem State.setAck_rdata (a : Byte) : (s.setAck a).rdata = s.rdata := rfl
@[simp] theorem State.setAck_read (a : Byte) : (s.setAck a).read = s.read := rfl
@[simp] theorem State.setAck_events (a : Byte) : (s.setAck a).events = s.events := rfl

@[simp] theorem State.setFault_crc : (s.setFault).crc = s.crc := rfl
@[simp] theorem State.setFault_res : (s.setFault).res = s.res := rfl
@[simp] theorem State.setFault_rtype : (s.setFault).rtype = s.rtype := rfl
@[simp] theorem State.setFault_rlen : (s.setFault).rlen = s.rlen := rfl
@[simp] theorem State.setFault_rack : (s.setFault).rack = s.rack := rfl
@[simp] theorem State.setFault_fault : (s.setFault).fault = true := rfl
@[simp] theorem State.setFault_tx : (s.setFault).tx = s.tx := rfl
@[simp] theorem State.setFault_rx : (s.setFault).rx = s.rx := rfl
@[simp] theorem State.setFault_rdata : (s.setFault).rdata = s.rdata := rfl
@[simp] theorem State.setFault_read : (s.setFault).read = s.read := rfl
@[simp] theorem State.setFault_events : (s.setFault).events = s.events := rfl

@[simp] theorem State.returns_crc (v : Option Word) : (s.returns v).crc = s.crc := rfl
@[simp] theorem State.returns_res (v : Option Word) : (s.returns v).res = s.res := rfl
@[simp] theorem State.returns_rtype (v : Option Word) : (s.returns v).rtype = s.rtype := rfl
@[simp] theorem State.returns_rlen (v : Option Word) : (s.returns v).rlen = s.rlen := rfl
@[simp] theorem State.returns_rack (v : Option Word) : (s.returns v).rack = s.rack := rfl
@[simp] theorem State.returns_fault (v : Option Word) : (s.returns v).fault = s.fault := rfl
@[simp] theorem State.returns_tx (v : Option Word) : (s.returns v).tx = s.tx := rfl
@[simp] theorem State.returns_rx (v : Option Word) : (s.returns v).rx = s.rx := rfl
@[simp] theorem State.returns_rdata (v : Option Word) : (s.returns v).rdata = v := rfl
@[simp] theorem State.returns_read (v : Option Word) : (s.returns v).read = s.read := rfl
@[simp] theorem State.returns_events (v : Option Word) : (s.returns v).events = s.events := rfl

@[simp] theorem State.emit_crc (bs : List Byte) : (s.emit bs).crc = s.crc := rfl
@[simp] theorem State.emit_res (bs : List Byte) : (s.emit bs).res = s.res := rfl
@[simp] theorem State.emit_rtype (bs : List Byte) : (s.emit bs).rtype = s.rtype := rfl
@[simp] theorem State.emit_rlen (bs : List Byte) : (s.emit bs).rlen = s.rlen := rfl
@[simp] theorem State.emit_rack (bs : List Byte) : (s.emit bs).rack = s.rack := rfl
@[simp] theorem State.emit_fault (bs : List Byte) : (s.emit bs).fault = s.fault := rfl
@[simp] theorem State.emit_tx (bs : List Byte) : (s.emit bs).tx = s.tx ++ bs := rfl
@[simp] theorem State.emit_rx (bs : List Byte) : (s.emit bs).rx = s.rx := rfl
@[simp] theorem State.emit_rdata (bs : List Byte) : (s.emit bs).rdata = s.rdata := rfl
@[simp] theorem State.emit_read (bs : List Byte) : (s.emit bs).read = s.read := rfl
@[simp] theorem State.emit_events (bs : List Byte) : (s.emit bs).events = s.events := rfl

@[simp] theorem State.arrive_crc (bs : List Byte) : (s.arrive bs).crc = s.crc := rfl
@[simp] theorem State.arrive_res (bs : List Byte) : (s.arrive bs).res = s.res := rfl
@[simp] theorem State.arrive_rtype (bs : List Byte) : (s.arrive bs).rtype = s.rtype := rfl
@[simp] theorem State.arrive_rlen (bs : List Byte) : (s.arrive bs).rlen = s.rlen := rfl
@[simp] theorem State.arrive_rack (bs : List Byte) : (s.arrive bs).rack = s.rack := rfl
@[simp] theorem State.arrive_fault (bs : List Byte) : (s.arrive bs).fault = s.fault := rfl
@[simp] theorem State.arrive_tx (bs : List Byte) : (s.arrive bs).tx = s.tx := rfl
@[simp] theorem State.arrive_rx (bs : List Byte) : (s.arrive bs).rx = s.rx ++ bs := rfl
@[simp] theorem State.arrive_rdata (bs : List Byte) : (s.arrive bs).rdata = s.rdata := rfl
@[simp] theorem State.arrive_read (bs : List Byte) : (s.arrive bs).read = s.read := rfl
@[simp] theorem State.arrive_events (bs : List Byte) : (s.arrive bs).events = s.events := rfl

@[simp] theorem State.setRx_crc (bs : List Byte) : (s.setRx bs).crc = s.crc := rfl
@[simp] theorem State.setRx_res (bs : List Byte) : (s.setRx bs).res = s.res := rfl
@[simp] theorem State.setRx_rtype (bs : List Byte) : (s.setRx bs).rtype = s.rtype := rfl
@[simp] theorem State.setRx_rlen (bs : List Byte) : (s.setRx bs).rlen = s.rlen := rfl
@[simp] theorem State.setRx_rack (bs : List Byte) : (s.setRx bs).rack = s.rack := rfl
@[simp] theorem State.setRx_fault (bs : List Byte) : (s.setRx bs).fault = s.fault := rfl
@[simp] theorem State.setRx_tx (bs : List Byte) : (s.setRx bs).tx = s.tx := rfl
@[simp] theorem State.setRx_rx (bs : List Byte) : (s.setRx bs).rx = bs := rfl
@[simp] theorem State.setRx_rdata (bs : List Byte) : (s.setRx bs).rdata = s.rdata := rfl
@[simp] theorem State.setRx_read (bs : List Byte) : (s.setRx bs).read = s.read := rfl
@[simp] theorem State.setRx_events (bs : List Byte) : (s.setRx bs).events = s.events := rfl

@[simp] theorem State.setRead_crc (m : ReadMove) : (s.setRead m).crc = s.crc := rfl
@[simp] theorem State.setRead_res (m : ReadMove) : (s.setRead m).res = s.res := rfl
@[simp] theorem State.setRead_rtype (m : ReadMove) : (s.setRead m).rtype = s.rtype := rfl
@[simp] theorem State.setRead_rlen (m : ReadMove) : (s.setRead m).rlen = s.rlen := rfl
@[simp] theorem State.setRead_rack (m : ReadMove) : (s.setRead m).rack = s.rack := rfl
@[simp] theorem State.setRead_fault (m : ReadMove) : (s.setRead m).fault = s.fault := rfl
@[simp] theorem State.setRead_tx (m : ReadMove) : (s.setRead m).tx = s.tx := rfl
@[simp] theorem State.setRead_rx (m : ReadMove) : (s.setRead m).rx = s.rx := rfl
@[simp] theorem State.setRead_rdata (m : ReadMove) : (s.setRead m).rdata = s.rdata := rfl
@[simp] theorem State.setRead_read (m : ReadMove) : (s.setRead m).read = m := rfl
@[simp] theorem State.setRead_events (m : ReadMove) : (s.setRead m).events = s.events := rfl

@[simp] theorem State.setEvents_crc (es : List Event) : (s.setEvents es).crc = s.crc := rfl
@[simp] theorem State.setEvents_res (es : List Event) : (s.setEvents es).res = s.res := rfl
@[simp] theorem State.setEvents_rtype (es : List Event) : (s.setEvents es).rtype = s.rtype := rfl
@[simp] theorem State.setEvents_rlen (es : List Event) : (s.setEvents es).rlen = s.rlen := rfl
@[simp] theorem State.setEvents_rack (es : List Event) : (s.setEvents es).rack = s.rack := rfl
@[simp] theorem State.setEvents_fault (es : List Event) : (s.setEvents es).fault = s.fault := rfl
@[simp] theorem State.setEvents_tx (es : List Event) : (s.setEvents es).tx = s.tx := rfl
@[simp] theorem State.setEvents_rx (es : List Event) : (s.setEvents es).rx = s.rx := rfl
@[simp] theorem State.setEvents_rdata (es : List Event) : (s.setEvents es).rdata = s.rdata := rfl
@[simp] theorem State.setEvents_read (es : List Event) : (s.setEvents es).read = s.read := rfl
@[simp] theorem State.setEvents_events (es : List Event) : (s.setEvents es).events = es := rfl

@[simp] theorem State.raiseIllegalCommand_crc : (s.raiseIllegalCommand).crc = s.crc := rfl
@[simp] theorem State.raiseIllegalCommand_res : (s.raiseIllegalCommand).res = s.res := rfl
@[simp] theorem State.raiseIllegalCommand_rtype : (s.raiseIllegalCommand).rtype = s.rtype := rfl
@[simp] theorem State.raiseIllegalCommand_rlen : (s.raiseIllegalCommand).rlen = s.rlen := rfl
@[simp] theorem State.raiseIllegalCommand_rack : (s.raiseIllegalCommand).rack = s.rack := rfl
@[simp] theorem State.raiseIllegalCommand_fault : (s.raiseIllegalCommand).fault = true := rfl
@[simp] theorem State.raiseIllegalCommand_tx : (s.raiseIllegalCommand).tx = s.tx := rfl
@[simp] theorem State.raiseIllegalCommand_rx : (s.raiseIllegalCommand).rx = s.rx := rfl
@[simp] theorem State.raiseIllegalCommand_rdata : (s.raiseIllegalCommand).rdata = none := rfl
@[simp] theorem State.raiseIllegalCommand_read : (s.raiseIllegalCommand).read = s.read := rfl
@[simp] theorem State.raiseIllegalCommand_events : (s.raiseIllegalCommand).events = s.events := rfl

@[simp] theorem State.applyReset_crc : (s.applyReset).crc = Config.crcInit := rfl
@[simp] theorem State.applyReset_res : (s.applyReset).res = .none := rfl
@[simp] theorem State.applyReset_rtype : (s.applyReset).rtype = 0 := rfl
@[simp] theorem State.applyReset_rlen : (s.applyReset).rlen = 0 := rfl
@[simp] theorem State.applyReset_rack : (s.applyReset).rack = 0 := rfl
@[simp] theorem State.applyReset_fault : (s.applyReset).fault = false := rfl
@[simp] theorem State.applyReset_tx : (s.applyReset).tx = [] := rfl
@[simp] theorem State.applyReset_rx : (s.applyReset).rx = s.rx := rfl
@[simp] theorem State.applyReset_rdata : (s.applyReset).rdata = none := rfl
@[simp] theorem State.applyReset_read : (s.applyReset).read = s.read := rfl
@[simp] theorem State.applyReset_events : (s.applyReset).events = s.events := rfl

end Sys2Proof.Machine
end

