-- ==== Sys2Proof/Laws/Ops.lean ====
section
/-! SUPPORT. What each shared operation can do, said once: the read of `RX` and the two receive operations over it. -/

namespace Sys2Proof.Machine

/-- A read is satisfied exactly when enough bytes have arrived in time. -/
theorem State.satisfied_iff (s : State) (n : Nat) : s.satisfied n = true ↔ n ≤ s.inTime.length := by
  simp [State.satisfied]

/-- What arrives, in time or too late, is the late bytes behind what stood in `RX`. -/
@[simp] theorem State.inTime_append_tooLate (s : State) : s.inTime ++ s.tooLate = s.rx ++ s.read.late := by
  cases h : s.read.expires <;> simp [State.inTime, State.tooLate, h]

/-- R43, `Full`. -/
theorem State.memRead_full {s : State} {n : Nat} (h : s.satisfied n = true) :
    s.memRead n = (.full (s.inTime.take n), s.setRx (s.inTime.drop n ++ s.tooLate)) := by
  simp [State.memRead, h]

/-- R43, `Short`. -/
theorem State.memRead_short {s : State} {n : Nat} (h : s.satisfied n = false) :
    s.memRead n = (.short s.inTime, s.setRx s.tooLate) := by
  simp [State.memRead, h]

/-- R141, a satisfied read: everything the operation does, by the four bytes it took. -/
theorem State.receiveHeader_full {s : State} (h : s.satisfied 4 = true) :
    s.receiveHeader =
      { s with
        rtype := byteAt (s.inTime.take 4) 1
        rlen := unLe2 (byteAt (s.inTime.take 4) 2) (byteAt (s.inTime.take 4) 3)
        res := judgeHeader (byteAt (s.inTime.take 4) 0) (byteAt (s.inTime.take 4) 1)
        rx := s.inTime.drop 4 ++ s.tooLate } := by
  simp only [State.receiveHeader, Config.headerSize, State.memRead_full h]
  rfl

/-- R141, a short read. -/
theorem State.receiveHeader_short {s : State} (h : s.satisfied 4 = false) :
    s.receiveHeader = { s with res := .short, rx := s.tooLate } := by
  simp only [State.receiveHeader, Config.headerSize, State.memRead_short h]
  rfl

/-- R143, a satisfied read: everything the operation does, by the twelve bytes it took. -/
theorem State.receiveResponse_full {s : State} (ackCode : Byte) (h : s.satisfied 12 = true) :
    s.receiveResponse ackCode =
      { s with
        rtype := byteAt (s.inTime.take 12) 1
        rlen := unLe2 (byteAt (s.inTime.take 12) 2) (byteAt (s.inTime.take 12) 3)
        rack := byteAt (s.inTime.take 12) 4
        res := judgeResponse ackCode (byteAt (s.inTime.take 12) 0) (byteAt (s.inTime.take 12) 1)
          (byteAt (s.inTime.take 12) 4)
        rx := s.inTime.drop 12 ++ s.tooLate } := by
  simp only [State.receiveResponse, Config.responseSize, State.memRead_full h]
  rfl

/-- R143, a short read. -/
theorem State.receiveResponse_short {s : State} (ackCode : Byte) (h : s.satisfied 12 = false) :
    s.receiveResponse ackCode = { s with res := .short, rx := s.tooLate } := by
  simp only [State.receiveResponse, Config.responseSize, State.memRead_short h]
  rfl

/-- What `RXHDR` leaves alone, whichever answer the read gets (R147). -/
theorem State.receiveHeader_frame (s : State) :
    s.receiveHeader.crc = s.crc ∧ s.receiveHeader.rack = s.rack ∧ s.receiveHeader.fault = s.fault ∧
      s.receiveHeader.tx = s.tx ∧ s.receiveHeader.read = s.read ∧ s.receiveHeader.events = s.events := by
  cases h : s.satisfied 4 <;> simp [State.receiveHeader_full, State.receiveHeader_short, h]

/-- What `RXRESP` leaves alone, whichever answer the read gets (R147). -/
theorem State.receiveResponse_frame (s : State) (a : Byte) :
    (s.receiveResponse a).crc = s.crc ∧ (s.receiveResponse a).fault = s.fault ∧ (s.receiveResponse a).tx = s.tx ∧
      (s.receiveResponse a).read = s.read ∧ (s.receiveResponse a).events = s.events := by
  cases h : s.satisfied 12 <;> simp [State.receiveResponse_full, State.receiveResponse_short, h]

/-- Both receive operations leave a suffix of what stood in `RX` and arrived in `RX`. -/
theorem State.receive_rx_suffix (s : State) (a : Byte) :
    s.receiveHeader.rx <:+ s.rx ++ s.read.late ∧ (s.receiveResponse a).rx <:+ s.rx ++ s.read.late := by
  have hd (n : Nat) : s.inTime.drop n ++ s.tooLate <:+ s.rx ++ s.read.late := by
    rw [← State.inTime_append_tooLate]
    exact ⟨s.inTime.take n, by rw [← List.append_assoc, List.take_append_drop]⟩
  have hs : s.tooLate <:+ s.rx ++ s.read.late := by
    rw [← State.inTime_append_tooLate]
    exact List.suffix_append _ _
  constructor
  · cases h : s.satisfied 4 <;> simp [State.receiveHeader_full, State.receiveHeader_short, h, hs, hd]
  · cases h : s.satisfied 12 <;> simp [State.receiveResponse_full, State.receiveResponse_short, h, hs, hd]

end Sys2Proof.Machine
end

