-- ==== Sys2Proof/Laws/Step.lean ====
section
/-! SUPPORT. What a step is, by the move at the head of the list; every statement about a step goes through these. -/

namespace Sys2Proof.Machine

/-- No move to come: the block is idle. -/
theorem step_idle {s : State} (h : s.events = []) : step s = .next s := by simp [step, h]

/-- A move to come: it is performed, the rest of the list left. -/
theorem step_event {s : State} {e : Event} {es : List Event} (h : s.events = e :: es) :
    step s = perform e (s.setEvents es) := by simp [step, h]

/-- A legal command word runs its instruction. -/
theorem issueWord_ok {w : Word} {i : Instr} (h : decode .command w = .ok i) (m : ReadMove) (s : State) :
    issueWord w m s = exec i (s.setRead m) := by simp [issueWord, h]

/-- An illegal command word raises `IllegalCommand`. -/
theorem issueWord_error {w : Word} {r : Reject} (h : decode .command w = .error r) (m : ReadMove) (s : State) :
    issueWord w m s = .next (s.setRead m).raiseIllegalCommand := by simp [issueWord, h]

/-- A packet header on the link runs its row. -/
theorem arriveBytes_ok {bs : List Byte} {i : Instr} (h : decodeWire bs = .ok i) (s : State) :
    arriveBytes bs s = exec i s := by simp [arriveBytes, h]

/-- Other bytes on the link are appended to `RX`. -/
theorem arriveBytes_error {bs : List Byte} {r : Reject} (h : decodeWire bs = .error r) (s : State) :
    arriveBytes bs s = .next (s.arrive bs) := by simp [arriveBytes, h]

/-- What a step can be: idle, a legal command, an illegal command, a packet header, other bytes, a reset. -/
theorem step_cases {s : State} {o : Host.Outcome State Fault Refusal} (h : step s = o) :
    (s.events = [] ∧ o = .next s) ∨
    (∃ w m es i, s.events = .issue w m :: es ∧ decode .command w = .ok i ∧ o = exec i ((s.setEvents es).setRead m)) ∨
    (∃ w m es r, s.events = .issue w m :: es ∧ decode .command w = .error r ∧
      o = .next ((s.setEvents es).setRead m).raiseIllegalCommand) ∨
    (∃ bs es i, s.events = .arrive bs :: es ∧ decodeWire bs = .ok i ∧ o = exec i (s.setEvents es)) ∨
    (∃ bs es r, s.events = .arrive bs :: es ∧ decodeWire bs = .error r ∧ o = .next ((s.setEvents es).arrive bs)) ∨
    (∃ es, s.events = .reset :: es ∧ o = .next (s.setEvents es).applyReset) := by
  subst h
  match he : s.events with
  | [] => exact .inl ⟨rfl, step_idle he⟩
  | .issue w m :: es =>
    match hd : decode .command w with
    | .ok i =>
      exact .inr (.inl ⟨w, m, es, i, rfl, hd, by rw [step_event he, perform, issueWord_ok hd]⟩)
    | .error r =>
      exact .inr (.inr (.inl ⟨w, m, es, r, rfl, hd, by rw [step_event he, perform, issueWord_error hd]⟩))
  | .arrive bs :: es =>
    match hd : decodeWire bs with
    | .ok i =>
      exact .inr (.inr (.inr (.inl ⟨bs, es, i, rfl, hd, by rw [step_event he, perform, arriveBytes_ok hd]⟩)))
    | .error r =>
      exact .inr (.inr (.inr (.inr (.inl ⟨bs, es, r, rfl, hd, by rw [step_event he, perform, arriveBytes_error hd]⟩))))
  | .reset :: es => exact .inr (.inr (.inr (.inr (.inr ⟨es, rfl, by rw [step_event he, perform]⟩))))

end Sys2Proof.Machine
end

