-- ==== Sys2Proof/Laws/Transfer.lean ====
section
/-! SUPPORT. Running the host's actions: appended runs, what the environment's move does to a transfer, and a run of operations that
read nothing, which leave `RX` and the environment's answer as they were. -/

namespace Sys2Proof.Machine

/-- Runs one after another. -/
theorem hostRun_append (a b : List HostMove) (t : Transfer) : hostRun (a ++ b) t = hostRun b (hostRun a t) := by
  induction a generalizing t with
  | nil => rfl
  | cons m ms ih => rw [List.cons_append, hostRun, ih, hostRun]

/-! ### The environment's move: the block only -/

@[simp] theorem Transfer.disturb_phase (t : Transfer) (m : HostMove) : (t.disturb m).phase = t.phase := rfl
@[simp] theorem Transfer.disturb_plan (t : Transfer) (m : HostMove) : (t.disturb m).plan = t.plan := rfl
@[simp] theorem Transfer.disturb_image (t : Transfer) (m : HostMove) : (t.disturb m).image = t.image := rfl
@[simp] theorem Transfer.disturb_version (t : Transfer) (m : HostMove) : (t.disturb m).version = t.version := rfl
@[simp] theorem Transfer.disturb_returned (t : Transfer) (m : HostMove) : (t.disturb m).returned = t.returned := rfl
@[simp] theorem Transfer.disturb_block (t : Transfer) (m : HostMove) : (t.disturb m).block = m.onBlock t.block := rfl

/-- R190, R30: a reset empties `TX`, and nothing else the environment does touches it. -/
@[simp] theorem HostMove.onBlock_tx (m : HostMove) (b : State) : (m.onBlock b).tx = if m.resets then [] else b.tx := by
  cases h : m.resets <;> simp [HostMove.onBlock, h, State.arrive, State.applyReset]

/-- R193, R31: `RX` only grows under the environment. -/
@[simp] theorem HostMove.onBlock_rx (m : HostMove) (b : State) : (m.onBlock b).rx = b.rx ++ m.arrivals := by
  cases h : m.resets <;> simp [HostMove.onBlock, h, State.arrive, State.applyReset]

/-- A move that leaves the block as it is: no reset, nothing arriving. -/
theorem Transfer.disturb_still {m : HostMove} (hr : m.resets = false) (ha : m.arrivals = []) (t : Transfer) : t.disturb m = t := by
  simp [Transfer.disturb, HostMove.onBlock, hr, ha, State.arrive]

/-! ### The host's action -/

/-- A phase the host is still working in. -/
def Working (p : Phase) : Prop := p ≠ .idle ∧ p ≠ .done ∧ ∀ r, p ≠ .failed r

/-- One action of a working phase whose next action is an operation. -/
theorem Transfer.act_op {m : HostMove} {t : Transfer} {i : Instr} {rest : List HostAction} (hp : Working t.phase)
    (h : t.plan = .op i :: rest) : t.act m = t.issue m i rest := by
  obtain ⟨p, plan, image, v, b, x⟩ := t
  obtain ⟨h1, h2, h3⟩ := hp
  subst h
  cases p <;> simp_all [Transfer.act]

/-- A wait passes. -/
theorem Transfer.act_wait {m : HostMove} {t : Transfer} {a : HostAction} {rest : List HostAction} (hp : Working t.phase)
    (ha : a = .settle ∨ a = .phaseWait) (h : t.plan = a :: rest) : t.act m = { t with plan := rest } := by
  obtain ⟨p, plan, image, v, b, x⟩ := t
  obtain ⟨h1, h2, h3⟩ := hp
  subst h
  rcases ha with rfl | rfl <;> cases p <;> simp_all [Transfer.act]

/-- CONF is planned with the checksum the host holds. -/
theorem Transfer.act_sendConf {m : HostMove} {t : Transfer} {rest : List HostAction} (hp : Working t.phase)
    (h : t.plan = .sendConf :: rest) :
    t.act m = { t with plan := pktConf t.version (BitVec.ofNat 32 t.image.length) (t.returned.getD 0) ++ rest } := by
  obtain ⟨p, plan, image, v, b, x⟩ := t
  obtain ⟨h1, h2, h3⟩ := hp
  subst h
  cases p <;> simp_all [Transfer.act]

/-- A plan that is done leads to the transition. -/
theorem Transfer.act_done {m : HostMove} {t : Transfer} (hp : Working t.phase) (h : t.plan = []) : t.act m = t.advance := by
  obtain ⟨p, plan, image, v, b, x⟩ := t
  obtain ⟨h1, h2, h3⟩ := hp
  subst h
  cases p <;> simp_all [Transfer.act]

/-- An operation whose write does not fail: the block runs it, and the host keeps what it returned. -/
theorem Transfer.issue_next {t : Transfer} {m : HostMove} {i : Instr} {rest : List HostAction} {b : State}
    (hw : m.writeFails = false) (hd : decode .command (encode i) = .ok i) (he : exec i (t.block.setRead m.read) = .next b) :
    t.issue m i rest = { t with plan := rest, block := b, returned := b.rdata } := by
  simp [Transfer.issue, hw, perform, issueWord_ok hd, he]

/-- R146: an ACK opens the gate. -/
theorem Transfer.gate_acked {t : Transfer} (h : t.acked = true) (next : Phase) (plan : List HostAction) :
    t.gate next plan = { t with phase := next, plan := plan } := by simp [Transfer.gate, h]

/-! ### The transitions of R200 and R201 -/

theorem Transfer.advance_idle {t : Transfer} (h : t.phase = .idle) :
    t.advance = { t with phase := .awaitStartAck, plan := pktStart ++ awaitAck } := by simp [Transfer.advance, h]

theorem Transfer.advance_start {t : Transfer} (h : t.phase = .awaitStartAck) :
    t.advance =
      t.gate .awaitConfigAck ([.phaseWait] ++ (checksum t.image).map HostAction.op ++ [.sendConf] ++ awaitAck) := by
  simp [Transfer.advance, h]

theorem Transfer.advance_conf {t : Transfer} (h : t.phase = .awaitConfigAck) :
    t.advance = t.gate (t.phaseFrom 0) ([.phaseWait] ++ t.planFrom 0) := by simp [Transfer.advance, h]

theorem Transfer.advance_sent {t : Transfer} {i : Nat} (h : t.phase = .sendingChunk i) :
    t.advance = { t with phase := .awaitChunkAck i, plan := awaitAck } := by simp [Transfer.advance, h]

theorem Transfer.advance_chunk {t : Transfer} {i : Nat} (h : t.phase = .awaitChunkAck i) :
    t.advance = t.gate (t.phaseFrom (i + 1)) (t.planFrom (i + 1)) := by simp [Transfer.advance, h]

theorem Transfer.advance_stop {t : Transfer} (h : t.phase = .awaitStopAck) : t.advance = t.gate .done [] := by
  simp [Transfer.advance, h]

/-- A command other than the two receive operations leaves `RX` and the environment's answer alone. -/
theorem exec_reads_nothing {i : Instr} (h : i.port = .command) (h1 : i ≠ .rxhdr) (h2 : i ≠ .rxresp) (s : State) :
    ∃ u, exec i s = .next u ∧ u.rx = s.rx ∧ u.read = s.read := by
  cases i <;> first | exact ⟨_, rfl, rfl, rfl⟩ | exact absurd rfl h1 | exact absurd rfl h2 | cases h

/-- A run of such commands, the environment still and no write failing, uses up its part of the plan. -/
theorem hostRun_ops {m : HostMove} (hm : m.resets = false) (ha : m.arrivals = []) (hw : m.writeFails = false) (is : List Instr)
    (hi : ∀ i ∈ is, decode .command (encode i) = .ok i ∧ i.port = .command ∧ i ≠ .rxhdr ∧ i ≠ .rxresp)
    (t : Transfer) (rest : List HostAction) (hp : Working t.phase) (h : t.plan = is.map .op ++ rest) :
    ∃ u x, hostRun (List.replicate is.length m) t = { t with plan := rest, block := u, returned := x } ∧ u.rx = t.block.rx := by
  induction is generalizing t with
  | nil =>
    refine ⟨t.block, t.returned, ?_, rfl⟩
    obtain ⟨p, plan, image, v, b, x⟩ := t
    simp only [List.map_nil, List.nil_append] at h
    simp [hostRun, h]
  | cons i is ih =>
    obtain ⟨hd, hc, h1, h2⟩ := hi i (List.mem_cons_self ..)
    obtain ⟨b, he, hx, -⟩ := exec_reads_nothing hc h1 h2 (t.block.setRead m.read)
    have hs : hostStep m t = { t with plan := is.map .op ++ rest, block := b, returned := b.rdata } := by
      rw [hostStep, Transfer.disturb_still hm ha, Transfer.act_op hp (by rw [h, List.map_cons, List.cons_append]),
        Transfer.issue_next hw hd he]
    obtain ⟨u, x, hu, hux⟩ := ih (fun j hj => hi j (List.mem_cons_of_mem _ hj))
      { t with plan := is.map .op ++ rest, block := b, returned := b.rdata } hp rfl
    refine ⟨u, x, ?_, by rw [hux]; exact hx⟩
    rw [List.length_cons, List.replicate_succ, hostRun, hs]
    exact hu

end Sys2Proof.Machine
end

