-- ==== Sys2Proof/Laws/Completion.lean ====
section
/-! SUPPORT. Every image the host accepts has an environment under which its transfer reaches `Done`: the gates can be passed, for
any number of chunks. -/

namespace Sys2Proof.Machine

/-- The environment lets the host act, and nothing happens. -/
def HostMove.quiet : HostMove := ⟨false, [], ⟨[], false⟩, false⟩

/-- The peer's ACK arrives while the host's read waits. -/
def HostMove.reply : HostMove := ⟨false, [], ⟨respPacket 4 Config.ackCode (List.replicate 7 0), false⟩, false⟩

/-- Some environment that never resets the block takes the transfer to `Done`. -/
def Completes (t : Transfer) : Prop := ∃ ms, (∀ m ∈ ms, m.resets = false) ∧ (hostRun ms t).phase = .done

/-- It is enough that one action leads to a transfer that completes. -/
theorem Completes.step {t : Transfer} {m : HostMove} (hm : m.resets = false) (h : Completes (hostStep m t)) : Completes t := by
  obtain ⟨ms, hr, hd⟩ := h
  exact ⟨m :: ms, by simpa [hm] using hr, hd⟩

/-- It is enough that a quiet action leads to a transfer that completes. -/
theorem Completes.quiet {t : Transfer} (h : Completes (t.act .quiet)) : Completes t := by
  refine .step (m := .quiet) rfl ?_
  rwa [hostStep, Transfer.disturb_still rfl rfl]

section
variable {image : List Byte} {v : VersionTag}

/-- From this phase and plan the transfer completes, whatever the block, as long as nothing is left unread in `RX`. -/
def Promising (image : List Byte) (v : VersionTag) (p : Phase) (plan : List HostAction) : Prop :=
  ∀ b x, b.rx = [] → Completes ⟨p, plan, image, v, b, x⟩

/-- Operations that read nothing. -/
theorem Promising.ops {p : Phase} (hp : Working p) (is : List Instr)
    (hi : ∀ i ∈ is, decode .command (encode i) = .ok i ∧ i.port = .command ∧ i ≠ .rxhdr ∧ i ≠ .rxresp)
    {rest : List HostAction} (h : Promising image v p rest) : Promising image v p (is.map .op ++ rest) := by
  intro b x hb
  obtain ⟨u, y, hu, hx⟩ := hostRun_ops (m := .quiet) rfl rfl rfl is hi ⟨p, is.map .op ++ rest, image, v, b, x⟩ rest hp rfl
  obtain ⟨ms, hr, hd⟩ := h u y (hx.trans hb)
  refine ⟨List.replicate is.length .quiet ++ ms, ?_, by rw [hostRun_append, hu]; exact hd⟩
  intro m hm
  rcases List.mem_append.mp hm with hm | hm
  · rw [List.eq_of_mem_replicate hm]; rfl
  · exact hr m hm

/-- A wait. -/
theorem Promising.wait {p : Phase} (hp : Working p) {a : HostAction} (ha : a = .settle ∨ a = .phaseWait) {rest : List HostAction}
    (h : Promising image v p rest) : Promising image v p (a :: rest) := by
  intro b x hb
  refine .quiet ?_
  rw [Transfer.act_wait hp ha rfl]
  exact h b x hb

/-- START and STOP: a header and the eight zero bytes. -/
theorem Promising.zeros {p : Phase} (hp : Working p) (ptype : Byte) (len : Half)
    (hd : decode .command (encode (.txhdr ptype len)) = .ok (.txhdr ptype len)) {rest : List HostAction}
    (h : Promising image v p rest) :
    Promising image v p ([.op (.txhdr ptype len), .settle] ++ eightZeros.map (fun b => .op (.txb b)) ++ rest) := by
  refine .ops hp [.txhdr ptype len] ?_ (.wait hp (.inl rfl) (.ops hp (List.replicate 8 (.txb 0)) (by decide) h))
  intro i hi
  rw [List.mem_singleton.mp hi]
  exact ⟨hd, rfl, by simp, by simp⟩

/-- The operations between the settle wait and the end of CONF and of DATA are commands that read nothing. -/
theorem summed_ops {is : List Instr} (h : ∀ i ∈ is, ∃ b, i = .txcb b) :
    ∀ i ∈ [Instr.crcinit] ++ (is ++ [.txcrc]),
      decode .command (encode i) = .ok i ∧ i.port = .command ∧ i ≠ .rxhdr ∧ i ≠ .rxresp := by
  intro i hi
  simp only [List.mem_append, List.mem_singleton] at hi
  rcases hi with rfl | hi | rfl
  · decide
  · obtain ⟨b, rfl⟩ := h i hi
    exact ⟨by simp [decode, decodeCommand, encode, formatB], rfl, by simp, by simp⟩
  · decide

/-- CONF, whatever the checksum. -/
theorem Promising.conf {p : Phase} (hp : Working p) (n c : Word) {rest : List HostAction} (h : Promising image v p rest) :
    Promising image v p (pktConf v n c ++ rest) := by
  refine .ops hp [.txhdr Config.typeConf Config.lenConf] (by decide) (.wait hp (.inl rfl) ?_)
  have hs := summed_ops (is := (versionBytes v).map Instr.txcb ++ txcw n ++ txcw c) (by
    simp only [txcw, ← List.map_append, List.mem_map]
    rintro i ⟨b, -, rfl⟩
    exact ⟨b, rfl⟩)
  exact .ops hp _ hs h

/-- DATA. -/
theorem Promising.data {p : Phase} (hp : Working p) (chunk : List Byte) {rest : List HostAction} (h : Promising image v p rest) :
    Promising image v p (dataActions chunk ++ rest) := by
  refine .ops hp [.txhdr Config.typeData (dataLength chunk)] ?_ (.wait hp (.inl rfl) ?_)
  · intro i hi
    rw [List.mem_singleton.mp hi]
    exact ⟨by simp [decode, decodeCommand, encode, formatH], rfl, by simp, by simp⟩
  · have hs := summed_ops (is := chunk.map Instr.txcb) (by
      simp only [List.mem_map]
      rintro i ⟨b, -, rfl⟩
      exact ⟨b, rfl⟩)
    exact .ops hp _ hs h

/-- CHECKSUM of the image. -/
theorem Promising.checksum {p : Phase} (hp : Working p) (s : List Byte) {rest : List HostAction} (h : Promising image v p rest) :
    Promising image v p ((checksum s).map .op ++ rest) := by
  refine .ops hp _ ?_ h
  intro i hi
  simp only [Machine.checksum, List.mem_append, List.mem_singleton, List.mem_map] at hi
  rcases hi with (rfl | ⟨b, -, rfl⟩) | rfl
  · decide
  · exact ⟨by simp [decode, decodeCommand, encode, formatB], rfl, by simp, by simp⟩
  · decide

/-- RXRESP finds the ACK. -/
theorem reply_read {s : State} (h : s.rx = []) :
    exec .rxresp (s.setRead HostMove.reply.read) =
      .next { s with res := .ok, rtype := 0x45, rlen := 4, rack := Config.ackCode, rdata := none, read := HostMove.reply.read } := by
  have ha : (s.setRead HostMove.reply.read).inTime = respPacket 4 Config.ackCode (List.replicate 7 0) := by
    simp [State.inTime, HostMove.reply, h]
  have hs : (s.setRead HostMove.reply.read).satisfied 12 = true := by
    rw [State.satisfied_iff, ha]; simp [respPacket]
  have hl : (s.setRead HostMove.reply.read).tooLate = [] := by simp [State.tooLate, HostMove.reply]
  simp only [exec, execRxresp, State.receiveResponse_full _ hs, ha, hl]
  simp [respPacket, headerBytes, le2, byteAt, judgeResponse, Config.sof, Config.typeResp, State.setRead, State.returns, h, unLe2]

/-- AWAIT.ACK: the host reads the ACK and its status, and the open gate decides. -/
theorem Promising.await {p : Phase} (hp : Working p)
    (h : ∀ b x, b.rx = [] → (⟨p, [], image, v, b, x⟩ : Transfer).acked = true →
      Completes (⟨p, [], image, v, b, x⟩ : Transfer).advance) : Promising image v p awaitAck := by
  intro b x hb
  refine .step (m := .reply) rfl ?_
  rw [hostStep, Transfer.disturb_still rfl rfl, Transfer.act_op hp rfl, Transfer.issue_next rfl (by decide) (reply_read hb)]
  refine .quiet ?_
  rw [Transfer.act_op hp rfl, Transfer.issue_next rfl (by decide) rfl]
  refine .quiet ?_
  rw [Transfer.act_done hp rfl]
  refine h _ _ hb ?_
  simp only [Transfer.acked, ackedBy, State.returns, statusWord, State.setRead]
  cases b.fault <;> rfl

/-- The working phases the host passes through. -/
theorem working_phases (i : Nat) :
    Working .awaitStartAck ∧ Working .awaitConfigAck ∧ Working (.sendingChunk i) ∧ Working (.awaitChunkAck i) ∧
      Working .awaitStopAck := by
  simp [Working]

/-- From the ACK of the last packet before it on: chunk `i` and all that follow, then STOP. -/
theorem promising_from (k i : Nat) (hk : i + k = chunkCount image.length)
    (t : Transfer) (ht : t.image = image) :
    Promising image v (t.phaseFrom i) (t.planFrom i) := by
  induction k generalizing i t with
  | zero =>
    obtain ⟨-, -, -, -, w5⟩ := working_phases i
    have hi : ¬ i < chunkCount t.image.length := by rw [ht]; omega
    rw [Transfer.phaseFrom, Transfer.planFrom, if_neg hi, if_neg hi]
    refine .wait w5 (.inr rfl) ?_
    refine .zeros w5 Config.typeStop Config.lenStartStop (by decide) (.await w5 ?_)
    intro c y _ ha
    refine ⟨[], by simp, ?_⟩
    rw [hostRun, Transfer.advance_stop rfl, Transfer.gate_acked ha]
  | succ k ih =>
    obtain ⟨-, -, w3, w4, -⟩ := working_phases i
    have hi : i < chunkCount t.image.length := by rw [ht]; omega
    rw [Transfer.phaseFrom, Transfer.planFrom, if_pos hi, if_pos hi, ← List.append_nil (dataActions _)]
    refine .data w3 _ ?_
    intro c y hc
    refine .quiet ?_
    rw [Transfer.act_done w3 rfl, Transfer.advance_sent rfl]
    refine Promising.await w4 ?_ c y hc
    intro d z hd ha
    rw [Transfer.advance_chunk rfl, Transfer.gate_acked ha]
    exact ih (i + 1) (by omega) _ rfl d z hd

/-- Every transfer the host begins with nothing unread in `RX` can reach `Done`. -/
theorem transfer_completes {b : State} {t : Transfer} (h : beginTransfer image v b = .ok t) (hb : b.rx = []) : Completes t := by
  obtain ⟨w1, w2, w3, -, w5⟩ := working_phases 0
  have ht : t = ⟨.idle, [], image, v, b, none⟩ := by
    rw [beginTransfer] at h
    split at h
    · exact (Except.ok.inj h).symm
    · cases h
  subst ht
  refine .quiet ?_
  refine Promising.zeros w1 Config.typeStart Config.lenStartStop (by decide) (.await w1 ?_) b none hb
  intro c x hc ha
  rw [Transfer.advance_start rfl, Transfer.gate_acked ha]
  have hconf : Promising image v .awaitConfigAck (.sendConf :: awaitAck) := by
    intro d y hd
    refine .quiet ?_
    rw [Transfer.act_sendConf w2 rfl]
    refine Promising.conf w2 _ _ (.await w2 ?_) d y hd
    intro e z he ha
    rw [Transfer.advance_conf rfl, Transfer.gate_acked ha]
    have hw : Working ((⟨.awaitConfigAck, [], image, v, e, z⟩ : Transfer).phaseFrom 0) := by
      unfold Transfer.phaseFrom
      split
      · exact w3
      · exact w5
    exact Promising.wait hw (.inr rfl) (promising_from _ 0 (Nat.zero_add _) _ rfl) e z he
  have hp := Promising.wait w2 (.inr rfl) (.checksum w2 image hconf) c x hc
  simpa only [List.append_assoc, List.cons_append, List.nil_append] using hp

end

end Sys2Proof.Machine
end

