-- ==== Sys2Proof/Laws/Config.lean ====
section
/-! SUPPORT. What is known of the open parameters, and no more: the constraints of spec/00_scope.md R7. -/

namespace Sys2Proof.Config

/-- R7: the two codes are distinct, whatever they are. -/
theorem nackCode_ne_ackCode : nackCode ≠ ackCode := by
  intro h
  have h1 : (nackCode).toNat = ackCode.toNat := congrArg BitVec.toNat h
  have h2 := nackOffset.isLt
  have h3 := ackCode.isLt
  simp only [nackCode, BitVec.toNat_add, BitVec.toNat_ofNat] at h1
  omega

theorem Ratio.pos_pos (r : Ratio) : 0 < r.pos := by
  have hn : (0 : Rat) ≤ r.num := Nat.cast_nonneg _
  have hd : (0 : Rat) ≤ r.den := Nat.cast_nonneg _
  exact div_pos (by linarith) (by linarith)

/-- Every positive fraction is some `Ratio`'s: the open values are under no law but being positive. -/
theorem Ratio.pos_surjective (q : Rat) (h : 0 < q) : ∃ r : Ratio, r.pos = q := by
  have hn : 0 < q.num := Rat.num_pos.mpr h
  have hd := q.den_pos
  refine ⟨⟨q.num.toNat - 1, q.den - 1⟩, ?_⟩
  have h1 : ((q.num.toNat - 1 : Nat) : Rat) + 1 = q.num := by
    rw [← Nat.cast_succ, show (q.num.toNat - 1).succ = q.num.toNat by omega]
    exact_mod_cast Int.toNat_of_nonneg hn.le
  have h2 : ((q.den - 1 : Nat) : Rat) + 1 = q.den := by
    rw [← Nat.cast_succ, show (q.den - 1).succ = q.den by omega]
  rw [Ratio.pos, h1, h2, Rat.num_div_den]

/-- R7: `TIME_UNIT` is a length of time. -/
theorem timeUnit_pos : 0 < timeUnit.length := timeUnitRatio.pos_pos

/-- R7, D15: `T_SETTLE` is positive. -/
theorem tSettle_pos : 0 < tSettle.length := settleRatio.pos_pos

/-- R7, D15: `T_PHASE` is larger. -/
theorem tSettle_lt_tPhase : tSettle.length < tPhase.length :=
  lt_add_of_pos_right _ phaseBeyondSettleRatio.pos_pos

/-- R6, R7: with nothing set, the read timeout is 30 `TIME_UNIT`s. -/
theorem tReadTimeout_default (h : readTimeoutSetting = none) : tReadTimeout.length = 30 * timeUnit.length := by
  simp [tReadTimeout, h, readTimeoutDefault]

end Sys2Proof.Config
end

