-- ==== Sys2Proof/Laws/PerInstr.lean ====
section
/-! SUPPORT. Per instruction: its word selects its own row of the opcode table (spec/30_encoding.md R75 and R62). -/

namespace Sys2Proof.Laws.SelectsRow

/-- The word of the instruction selects the instruction's row: `(w AND mask) = pattern`. -/
def Statement (i : Instr) : Prop := encode i &&& i.row.mask = i.row.pattern

theorem crcinit : Statement .crcinit := by unfold Statement; decide

theorem crcrd : Statement .crcrd := by unfold Statement; decide

theorem txcrc : Statement .txcrc := by unfold Statement; decide

theorem rxhdr : Statement .rxhdr := by unfold Statement; decide

theorem rxresp : Statement .rxresp := by unfold Statement; decide

theorem rdst : Statement .rdst := by unfold Statement; decide

theorem rdrx : Statement .rdrx := by unfold Statement; decide

/-- A word of format `B` under the mask `0xFFFFFF00` keeps `op` alone. -/
theorem commandWord_masked (op : BitVec 4) (b : Byte) :
    commandWord op b &&& 0xFFFFFF00 = op ++ (0 : BitVec 28) := by
  apply BitVec.eq_of_getLsbD_eq
  intro j hj
  simp only [commandWord, BitVec.getLsbD_and, BitVec.getLsbD_append]
  interval_cases j <;> simp

theorem crcb (b : Byte) : Statement (.crcb b) := commandWord_masked 0x2 b

theorem txb (b : Byte) : Statement (.txb b) := commandWord_masked 0x4 b

theorem txcb (b : Byte) : Statement (.txcb b) := commandWord_masked 0x5 b

theorem txhdr (ptype : Byte) (len : Half) : Statement (.txhdr ptype len) := by
  apply BitVec.eq_of_getLsbD_eq
  intro j hj
  simp only [encode, txhdrWord, Instr.row, BitVec.getLsbD_and, BitVec.getLsbD_append]
  interval_cases j <;> simp

/-- A header word under the mask `0x0000FFFF` keeps type and `SOF`. -/
theorem headerWord_masked (ptype : Byte) (len : Half) :
    headerWord ptype len &&& 0x0000FFFF = (0 : Half) ++ ptype ++ Config.sof := by
  apply BitVec.eq_of_getLsbD_eq
  intro j hj
  simp only [headerWord, BitVec.getLsbD_and, BitVec.getLsbD_append]
  interval_cases j <;> simp

theorem wireStart (len : Half) : Statement (.wireStart len) := headerWord_masked _ len

theorem wireStop (len : Half) : Statement (.wireStop len) := headerWord_masked _ len

theorem wireResp (len : Half) : Statement (.wireResp len) := headerWord_masked _ len

theorem wireConf (len : Half) : Statement (.wireConf len) := headerWord_masked _ len

theorem wireData (len : Half) : Statement (.wireData len) := headerWord_masked _ len

end Sys2Proof.Laws.SelectsRow
end

