-- ==== Sys2Proof/Tests/Slice0.lean ====
section
/-! SUPPORT. The model's own tests. Expected values are those of spec/95_test_vectors.md (the vector's name stands at each test)
or words written out from the encoding tables of spec/30_encoding.md; one step or one operation each. -/

namespace Sys2Proof.Tests

open Sys2Proof.Machine

/-- What a step leaves, seen through one field; `none` where it does not answer a next state. -/
def after {α : Type} (o : Host.Outcome State Fault Refusal) (f : State → α) : Option α :=
  match o with
  | .next s => some (f s)
  | .fault _ => none
  | .refused _ => none

/-- The reset state with one command word to come and the given input. -/
def issuing (w : Word) (rx : List Byte) : State := { State.reset with rx := rx, events := [.issue w ⟨[], false⟩] }

/-! ### WellFormed: a term each check refuses -/

theorem test_wf_start_len : Instr.wellFormed (.wireStart 5) = false := by decide

theorem test_wf_stop_len : Instr.wellFormed (.wireStop 12) = false := by decide

theorem test_wf_conf_not_corrected_to_16 : Instr.wellFormed (.wireConf 16) = false := by decide

theorem test_wf_data_above_max_chunk : Instr.wellFormed (.wireData 1025) = false := by decide

theorem test_wf_accepts :
    Instr.wellFormed (.wireStart 4) ∧ Instr.wellFormed (.wireConf 12) ∧ Instr.wellFormed (.wireData 1024) ∧
      Instr.wellFormed (.wireResp 65535) ∧ Instr.wellFormed (.txhdr 0xFF 0xFFFF) := by decide

/-! ### Decoding: each constructor by a word of R78 or R61, T4 to T8e, and the illegal words I1 to I12 -/

theorem test_decode_crcinit : decodeCommand 0x10000000 = .ok .crcinit := by rfl

theorem test_decode_crcb : decodeCommand 0x20000031 = .ok (.crcb 0x31) := by rfl

theorem test_decode_crcrd : decodeCommand 0x30000000 = .ok .crcrd := by rfl

theorem test_decode_txb : decodeCommand 0x4000005A = .ok (.txb 0x5A) := by rfl

theorem test_decode_txcb : decodeCommand 0x500000DE = .ok (.txcb 0xDE) := by rfl

theorem test_decode_txhdr : decodeCommand 0x60123489 = .ok (.txhdr 0x89 0x1234) := by rfl

theorem test_decode_txhdr_conf : decodeCommand 0x60000C67 = .ok (.txhdr 0x67 12) := by rfl

theorem test_decode_txcrc : decodeCommand 0x70000000 = .ok .txcrc := by rfl

theorem test_decode_rxhdr : decodeCommand 0x80000000 = .ok .rxhdr := by rfl

theorem test_decode_rxresp : decodeCommand 0x90000000 = .ok .rxresp := by rfl

theorem test_decode_rdst : decodeCommand 0xA0000000 = .ok .rdst := by rfl

theorem test_decode_rdrx : decodeCommand 0xB0000000 = .ok .rdrx := by rfl

theorem test_decode_wire_start : decodeWire [0x5A, 0x01, 0x04, 0x00] = .ok (.wireStart 4) := by rfl

theorem test_decode_wire_stop : decodeWire [0x5A, 0x23, 0x04, 0x00] = .ok (.wireStop 4) := by rfl

theorem test_decode_wire_resp : decodeWire [0x5A, 0x45, 0x04, 0x00] = .ok (.wireResp 4) := by rfl

theorem test_decode_wire_conf : decodeWire [0x5A, 0x67, 0x0C, 0x00] = .ok (.wireConf 12) := by rfl

theorem test_decode_wire_data : decodeWire [0x5A, 0x89, 0xC4, 0x01] = .ok (.wireData 452) := by rfl

theorem test_decode_header_word : decodeHeader 0x1234895A = .ok (.wireData 0x1234) := by rfl

theorem test_decode_wire_rejects :
    decodeWire [0xA5, 0x89, 0x00, 0x04] = .error .badSof ∧ decodeWire [0x5A, 0x02, 0x04, 0x00] = .error .unknownType ∧
      decodeWire [0x5A, 0x89, 0x00] = .error .notFourBytes := ⟨rfl, rfl, rfl⟩

theorem test_decode_illegal_opcodes :
    decodeCommand 0x00000000 = .error .illegalOpcode ∧ decodeCommand 0x00000001 = .error .illegalOpcode ∧
      decodeCommand 0xC0000000 = .error .illegalOpcode ∧ decodeCommand 0xFFFFFFFF = .error .illegalOpcode :=
  ⟨rfl, rfl, rfl, rfl⟩

theorem test_decode_illegal_fields :
    decodeCommand 0x11000000 = .error .mustBeZero ∧ decodeCommand 0x10000001 = .error .operandOfFormatN ∧
      decodeCommand 0x20000100 = .error .operandOfFormatB ∧ decodeCommand 0x2000FF00 = .error .operandOfFormatB ∧
      decodeCommand 0x30800000 = .error .operandOfFormatN ∧ decodeCommand 0x6FFFFFFF = .error .mustBeZero :=
  ⟨rfl, rfl, rfl, rfl, rfl, rfl⟩

theorem test_encode_words :
    encode (.crcb 0x31) = 0x20000031 ∧ encode (.txhdr 0x89 1024) = 0x60040089 ∧ encode .rxresp = 0x90000000 ∧
      encode (.wireConf 12) = 0x000C675A ∧ encode (.wireData 0x1234) = 0x1234895A := by decide

theorem test_table_word_command : decodeTableWord 32 0x60000401 = some (.txhdr 0x01 4) := by rfl

theorem test_table_word_header : decodeTableWord 16 0x895A = some (.wireData 0) := by rfl

theorem test_table_word_overlap_is_the_command : decodeTableWord 32 0x6000015A = some (.txhdr 0x5A 1) := by rfl

/-! ### CRC engine -/

theorem test_crc_step_trace : crcStep 0xFFFFFFFF 0x01 = 0x4AC9A203 := by decide

theorem test_crc_rounds_of_trace : crcRounds 7 (0xFFFFFFFF ^^^ 0x01000000) = 0xA7045FDA := by decide

theorem test_crc_step_v31 : crcStep 0x12345678 0x9A = 0x7B527556 := by decide

theorem test_crc_step_v28 : crcStep 0x80000000 0x00 = 0x690CE0EE := by decide

theorem test_crc_check_value_v2 :
    crc32 [0x31, 0x32, 0x33, 0x34, 0x35, 0x36, 0x37, 0x38, 0x39] = 0x0376E6E7 := by decide +kernel

theorem test_crc_v12 : crc32 [0xDE, 0xAD, 0xBE, 0xEF] = 0x81DA1A18 := by decide +kernel

theorem test_crc_residue_v33_v34 :
    crc32 [0x31, 0x32, 0x33, 0x34, 0x35, 0x36, 0x37, 0x38, 0x39, 0x03, 0x76, 0xE6, 0xE7] = 0 ∧
      crc32 [0x31, 0x32, 0x33, 0x34, 0x35, 0x36, 0x37, 0x38, 0x39, 0xE7, 0xE6, 0x76, 0x03] = 0x54453F62 := by decide +kernel

theorem test_crcinit_v38 : after (exec .crcinit { State.reset with crc := 0x12345678 }) State.crc = some 0xFFFFFFFF := by
  decide

theorem test_crcb_v39 : after (step (issuing 0x20000001 [])) State.crc = some 0x4AC9A203 := by decide

theorem test_crcb_leaves_tx : after (step (issuing 0x20000001 [])) State.tx = some [] := by decide

theorem test_crcrd_v41 : after (exec .crcrd { State.reset with crc := 0x0376E6E7 }) State.rdata = some (some 0x0376E6E7) := by
  decide

theorem test_crcrd_v42 : after (step (issuing 0x30000000 [])) State.rdata = some (some 0xFFFFFFFF) := by decide

/-! ### Transmit framer -/

theorem test_txb_no_escaping_t2 : after (step (issuing 0x4000005A [])) State.tx = some [0x5A] := by decide

theorem test_txb_leaves_crc : after (exec (.txb 0x00) State.reset) State.crc = some 0xFFFFFFFF := by decide

theorem test_txcb_t3 : after (step (issuing 0x50000001 [])) (fun s => (s.tx, s.crc)) = some ([0x01], 0x4AC9A203) := by decide

theorem test_txhdr_t8d : after (step (issuing 0x60123489 [])) State.tx = some [0x5A, 0x89, 0x34, 0x12] := by decide

theorem test_txhdr_type_unchecked_t8e : after (step (issuing 0x60FFFFFF [])) State.tx = some [0x5A, 0xFF, 0xFF, 0xFF] := by
  decide

theorem test_txcrc_t8f :
    after (exec .txcrc { State.reset with crc := 0x81DA1A18 }) (fun s => (s.tx, s.crc)) =
      some ([0x18, 0x1A, 0xDA, 0x81], 0x81DA1A18) := by decide

/-! ### Receive decoder: RXHDR (H1, H10, H11), RXRESP on the operation that takes the ACK code (sample value 0xC3) -/

theorem test_rxhdr_h1 :
    after (step (issuing 0x80000000 [0x5A, 0x89, 0xC4, 0x01, 0xAA])) (fun s => (s.res, s.rtype, s.rlen, s.rx)) =
      some (.ok, 0x89, 0x01C4, [0xAA]) := by decide

theorem test_rxhdr_h10_sof_first :
    after (step (issuing 0x80000000 [0x00, 0xFF, 0x34, 0x12])) (fun s => (s.res, rxinfoWord s)) =
      some (.badSof, 0x1234FF00) := by decide

theorem test_rxhdr_h11_short :
    after (step (issuing 0x80000000 [0x5A, 0x89, 0x00])) (fun s => (s.res, s.rtype, s.rx)) = some (.short, 0x00, []) := by
  decide

theorem test_rxhdr_late_bytes_complete_the_header :
    after (exec .rxhdr { State.reset with rx := [0x5A, 0x89], read := ⟨[0xC4, 0x01, 0xAA], false⟩ })
      (fun s => (s.res, s.rlen, s.rx)) = some (.ok, 0x01C4, [0xAA]) := by decide

theorem test_rxhdr_expiry_before_the_late_bytes :
    after (exec .rxhdr { State.reset with rx := [0x5A, 0x89], read := ⟨[0xC4, 0x01], true⟩ }) (fun s => (s.res, s.rlen, s.rx)) =
      some (.short, 0, [0xC4, 0x01]) := by decide

theorem test_rxhdr_full_although_it_expires :
    after (exec .rxhdr { State.reset with rx := [0x5A, 0x89, 0xC4, 0x01], read := ⟨[0xAA], true⟩ })
      (fun s => (s.res, s.rlen, s.rx)) = some (.ok, 0x01C4, [0xAA]) := by decide

/-- `RES`, `RTYPE`, `RLEN`, `RACK` and `RX` after RXRESP on the bytes given, with 0xC3 as ACK code. -/
def response (rx : List Byte) : Res × Byte × Half × Byte × List Byte :=
  let s := { State.reset with rx := rx }.receiveResponse 0xC3
  (s.res, s.rtype, s.rlen, s.rack, s.rx)

theorem test_rxresp_x1_ack :
    response [0x5A, 0x45, 0x04, 0x00, 0xC3, 0, 0, 0, 0, 0, 0, 0] = (.ok, 0x45, 4, 0xC3, []) := by decide

theorem test_rxresp_x2_nack :
    response [0x5A, 0x45, 0x04, 0x00, 0x3C, 0, 0, 0, 0, 0, 0, 0] = (.notAck, 0x45, 4, 0x3C, []) := by decide

theorem test_rxresp_x4_bad_sof :
    response [0x5B, 0x45, 0x04, 0x00, 0xC3, 0, 0, 0, 0, 0, 0, 0] = (.badSof, 0x45, 4, 0xC3, []) := by decide

theorem test_rxresp_x5_bad_type :
    response [0x5A, 0x01, 0x04, 0x00, 0xC3, 0, 0, 0, 0, 0, 0, 0] = (.badType, 0x01, 4, 0xC3, []) := by decide

theorem test_rxresp_x7_ignores_length_and_reserved :
    response [0x5A, 0x45, 0xFF, 0xFF, 0xC3, 1, 2, 3, 4, 5, 6, 7] = (.ok, 0x45, 0xFFFF, 0xC3, []) := by decide

theorem test_rxresp_x8_short :
    response [0x5A, 0x45, 0x04, 0x00, 0xC3, 0, 0, 0, 0, 0, 0] = (.short, 0, 0, 0, []) := by decide

theorem test_rxresp_x10_leaves_the_rest :
    response [0x5A, 0x45, 0x04, 0x00, 0xC3, 0, 0, 0, 0, 0, 0, 0, 0x99] = (.ok, 0x45, 4, 0xC3, [0x99]) := by decide

theorem test_rxresp_x11_ack_at_offset_5_is_no_ack :
    response [0x5A, 0x45, 0x04, 0x00, 0x00, 0xC3, 0, 0, 0, 0, 0, 0] = (.notAck, 0x45, 4, 0x00, []) := by decide

/-- X1 through `exec`, for whatever the ACK code is. -/
theorem test_rxresp_exec_ack :
    after (exec .rxresp { State.reset with rx := [0x5A, 0x45, 0x04, 0x00, Config.ackCode, 0, 0, 0, 0, 0, 0, 0] }) State.res =
      some .ok := by
  simp [after, exec, execRxresp, State.receiveResponse_full, State.satisfied, State.inTime, State.reset, State.returns,
    judgeResponse, byteAt, Config.sof, Config.typeResp]

/-- X2 through `exec`, for whatever the two codes are. -/
theorem test_rxresp_exec_nack :
    after (exec .rxresp { State.reset with rx := [0x5A, 0x45, 0x04, 0x00, Config.nackCode, 0, 0, 0, 0, 0, 0, 0] }) State.res =
      some .notAck := by
  simp [after, exec, execRxresp, State.receiveResponse_full, State.satisfied, State.inTime, State.reset, State.returns,
    judgeResponse, byteAt, Config.sof, Config.typeResp, Config.nackCode_ne_ackCode]

/-! ### Status operations and the exception -/

theorem test_rdst_s3 :
    after (exec .rdst { State.reset with res := .ok, fault := true }) State.rdata = some (some 0x00000101) := by decide

theorem test_rdst_s1 : after (step (issuing 0xA0000000 [])) State.rdata = some (some 0) := by decide

theorem test_rdrx_x1 :
    after (exec .rdrx { State.reset with rtype := 0x45, rlen := 4, rack := 0xC3 }) State.rdata = some (some 0x000445C3) := by
  decide

theorem test_rdrx_s2 : after (step (issuing 0xB0000000 [])) State.rdata = some (some 0) := by decide

theorem test_illegal_i1 :
    after (step (issuing 0x00000000 [])) (fun s => (s.fault, s.crc, s.tx, s.rdata)) = some (true, 0xFFFFFFFF, [], none) := by
  decide

theorem test_illegal_i9_consumes_nothing :
    after (step (issuing 0x90000001 [0x5A])) (fun s => (s.fault, s.rx, s.res)) = some (true, [0x5A], .none) := by decide

theorem test_fault_does_not_stop_i13 :
    after (exec (.txb 0) { State.reset with fault := true }) (fun s => (s.fault, s.tx)) = some (true, [0]) := by decide

/-! ### The link, reset and the table's words -/

theorem test_wire_start_arrives : after (exec (.wireStart 4) State.reset) State.rx = some [0x5A, 0x01, 0x04, 0x00] := by decide

theorem test_wire_stop_arrives : after (exec (.wireStop 4) State.reset) State.rx = some [0x5A, 0x23, 0x04, 0x00] := by decide

theorem test_wire_resp_arrives : after (exec (.wireResp 4) State.reset) State.rx = some [0x5A, 0x45, 0x04, 0x00] := by decide

theorem test_wire_conf_arrives : after (exec (.wireConf 12) State.reset) State.rx = some [0x5A, 0x67, 0x0C, 0x00] := by decide

theorem test_wire_data_arrives_behind_what_waits :
    after (exec (.wireData 452) { State.reset with rx := [0x99] }) State.rx = some [0x99, 0x5A, 0x89, 0xC4, 0x01] := by decide

theorem test_reset_event_keeps_rx :
    after (step { State.reset with crc := 1, fault := true, tx := [7], rx := [9], events := [.reset] })
      (fun s => (s.crc, s.fault, s.tx, s.rx)) = some (0xFFFFFFFF, false, [], [9]) := by decide

theorem test_fetch_word_runs_command :
    after (step (State.reset.withFetchWord 32 0x60040089)) State.tx = some [0x5A, 0x89, 0x00, 0x04] := by decide

theorem test_fetch_word_runs_header :
    after (step (State.reset.withFetchWord 16 0x675A)) State.rx = some [0x5A, 0x67, 0x00, 0x00] := by decide

/-! ### Layouts and pseudo-operations -/

theorem test_conf_packet_t9 :
    confPacket ⟨1, 2, 3, 0⟩ 9 0x0376E6E7 =
      [0x5A, 0x67, 0x0C, 0x00, 0x01, 0x02, 0x03, 0x00, 0x09, 0x00, 0x00, 0x00, 0xE7, 0xE6, 0x76, 0x03, 0xC0, 0x0D, 0xAB, 0x4E] := by
  decide +kernel

theorem test_data_packet_t13 :
    dataPacket [0xDE, 0xAD, 0xBE, 0xEF] = [0x5A, 0x89, 0x04, 0x00, 0xDE, 0xAD, 0xBE, 0xEF, 0x18, 0x1A, 0xDA, 0x81] := by decide +kernel

theorem test_data_packet_t15 : dataPacket [] = [0x5A, 0x89, 0x00, 0x00, 0xFF, 0xFF, 0xFF, 0xFF] := by decide

theorem test_start_packet_t11 : startPacket = [0x5A, 0x01, 0x04, 0x00, 0, 0, 0, 0, 0, 0, 0, 0] := by decide

theorem test_pkt_data_ops_p2 :
    (opsOf (dataActions [0xDE, 0xAD, 0xBE, 0xEF])).map encode =
      [0x60000489, 0x10000000, 0x500000DE, 0x500000AD, 0x500000BE, 0x500000EF, 0x70000000] := by decide

theorem test_checksum_ops_p1 :
    (checksum [0x31, 0x32]).map encode = [0x10000000, 0x20000031, 0x20000032, 0x30000000] := by decide

theorem test_chunk_counts_a4 :
    [0, 1, 1023, 1024, 1025, 2048, 2500, 65536].map chunkCount = [0, 1, 1, 1, 2, 2, 3, 64] := by decide

theorem test_version_tag_a7 :
    (versionTagOf [1, 2, 3]).toOption = some ⟨1, 2, 3, 0⟩ ∧ (versionTagOf [1, 2, 3, 4, 5]).toOption = none := by decide

theorem test_failure_kinds :
    failureKind 2 0 = .transportError ∧ failureKind 3 0 = .protocolViolation ∧ failureKind 4 0 = .protocolViolation := by
  refine ⟨?_, ?_, ?_⟩ <;> simp [failureKind, Res.code]

end Sys2Proof.Tests
end

