-- ==== Sys2Proof/Tests/Witness.lean ====
section
/-! SUPPORT. For every statement with hypotheses, a concrete state and operands that meet all of them together; where a statement has
several clauses, one for each, at the boundary of its range. -/

namespace Sys2Proof.Tests

open Sys2Proof.Machine Sys2Proof.Safety

/-- An answer that adds no byte and does not expire. -/
def calm : ReadMove := ⟨[], false⟩

/-! ### Encodings and steps -/

theorem witness_EncodeOfDecodeIsTheWord :
    decode .command 0x60123489 = .ok (.txhdr 0x89 0x1234) ∧ decode .link 0x000C675A = .ok (.wireConf 12) := ⟨rfl, rfl⟩

theorem witness_CommandRowsSelectDisjointly :
    (Instr.crcb 0xAB).port = .command ∧ (0x200000AB : Word) &&& (Instr.crcb 0).row.mask = (Instr.crcb 0).row.pattern ∧
      decode .command 0x200000AB = .ok (.crcb 0xAB) ∧ decode .command 0xC0000000 = .error .illegalOpcode :=
  ⟨rfl, by decide, rfl, rfl⟩

theorem witness_HeaderRowsSelectByType :
    (Instr.wireData 0).port = .link ∧ (0xFFFF895A : Word) &&& (Instr.wireData 0).row.mask = (Instr.wireData 0).row.pattern ∧
      decode .link 0xFFFF895A = .ok (.wireData 0xFFFF) := ⟨rfl, by decide, rfl⟩

theorem witness_IllegalCommandWordsByBits :
    decode .command 0x6FFFFFFF = .error .mustBeZero ∧
      (issuing 0x6FFFFFFF []).events = .issue 0x6FFFFFFF calm :: [] := ⟨rfl, rfl⟩

theorem witness_StepRunsTheIssuedCommand :
    (issuing 0x90000000 [1]).events = .issue 0x90000000 calm :: [] ∧ decode .command 0x90000000 = .ok .rxresp := ⟨rfl, rfl⟩

theorem witness_IllegalCommandIsTaken :
    (issuing 0x90000001 [1]).events = .issue 0x90000001 calm :: [] ∧
      decode .command 0x90000001 = .error .operandOfFormatN := ⟨rfl, rfl⟩

/-- The reset state with bytes to arrive, then a reset. -/
def arriving (bs : List Byte) : State := { State.reset with events := [.arrive bs, .reset] }

theorem witness_StepRunsTheArrivedHeader :
    (arriving [0x5A, 0x45, 0x04, 0x00]).events = .arrive [0x5A, 0x45, 0x04, 0x00] :: [.reset] ∧
      decodeWire [0x5A, 0x45, 0x04, 0x00] = .ok (.wireResp 4) := ⟨rfl, rfl⟩

theorem witness_ArrivingBytesAreAppendedToRx :
    (arriving [0x99]).events = .arrive [0x99] :: [.reset] ∧ (arriving []).events = .arrive [] :: [.reset] ∧
      (arriving [0x5A, 0x45, 0x04, 0x00]).events = .arrive [0x5A, 0x45, 0x04, 0x00] :: [.reset] := ⟨rfl, rfl, rfl⟩

/-- A state to be reset, every register away from its reset value. -/
def worn : State :=
  { crc := 0, res := .ok, rtype := 0x45, rlen := 4, rack := 9, fault := true, tx := [1], rx := [2], rdata := some 3,
    read := calm, events := [.reset] }

theorem witness_ResetEventSetsRegistersAndTx : worn.events = .reset :: [] := rfl

theorem witness_IdleBlockStaysAsItIs : State.reset.events = [] := rfl

theorem witness_ChecksumIsAffineOverXor : ([1, 2, 3] : List Byte).length = ([4, 5, 6] : List Byte).length := rfl

/-! ### Framer and decoder -/

theorem witness_HeaderRoundTrip :
    (0x89 : Byte) ∈ ([0x01, 0x23, 0x45, 0x67, 0x89] : List Byte) ∧
      (issuing 0x80000000 [0x5A, 0x89, 0xFF, 0xFF, 7]).inTime = [0x5A, 0x89, 0xFF, 0xFF] ++ [7] := ⟨by decide, rfl⟩

theorem witness_TxIsTheConcatenationInIssueOrder :
    ∀ i ∈ [Instr.txhdr 0x89 1, .txcb 7, .txcrc], emits i = true := by decide

/-- A state whose next read finds these bytes. -/
def reading (rx late : List Byte) (expires : Bool) : State := { State.reset with rx := rx, read := ⟨late, expires⟩ }

theorem witness_RxhdrDecodesOneHeader_full :
    (reading [0x5A, 0x89] [0x00, 0x04] false).inTime = 0x5A :: 0x89 :: 0x00 :: 0x04 :: [] ∧
      (reading [0x5A, 0x89, 0x00, 0x04] [7] true).inTime = 0x5A :: 0x89 :: 0x00 :: 0x04 :: [] := ⟨rfl, rfl⟩

theorem witness_RxhdrDecodesOneHeader_short :
    (reading [0x5A, 0x89] [0x00] false).inTime.length < 4 ∧ (reading [0x5A, 0x89, 0] [4] true).inTime.length < 4 := by decide

theorem witness_RxrespJudgesOneResponse_full :
    (reading [0x5A, 0x45, 4, 0, 7, 0, 0, 0, 0, 0, 0] [0] false).inTime =
      [0x5A, 0x45, 4, 0, 7, 0, 0, 0, 0, 0, 0, 0] ++ ([] : List Byte) := rfl

theorem witness_RxrespJudgesOneResponse_short :
    (reading (List.replicate 11 0) [] false).inTime.length < 12 ∧ (reading (List.replicate 11 0) [0] true).inTime.length < 12 := by
  decide

theorem witness_RxrespAcceptsExactlyTheAck (code : Byte) :
    ([1, 2, 3, 4, 5, 6, 7] : List Byte).length = 7 ∧
      (reading (respPacket 0xFFFF code [1, 2, 3, 4, 5, 6, 7]) [] false).inTime =
        respPacket 0xFFFF code [1, 2, 3, 4, 5, 6, 7] ++ [] := ⟨rfl, rfl⟩

theorem witness_EitherAnswerIsTheEnvironments_full :
    4 ≤ (([1, 2, 3] : List Byte) ++ [4]).length ∧
      (reading [1, 2, 3, 4] [] false).memRead 4 = (.full [1, 2, 3, 4], reading [] [] false) := by decide

theorem witness_EitherAnswerIsTheEnvironments_short :
    (([1, 2] : List Byte) ++ [3]).length < 4 ∧
      (reading [1, 2, 3] [4, 5] true).memRead 4 = (.short [1, 2, 3], reading [4, 5] [4, 5] true) := by decide

theorem witness_DecoderTouchesOnlyItsRegisters :
    after (exec .rxhdr (reading [1, 2, 3, 4] [] false)) State.res = some .badSof ∧
      after (exec .rxhdr (reading [1, 2, 3] [] false)) State.res = some .short ∧
      after (exec .rxresp (reading (List.replicate 12 0) [] false)) State.res = some .badSof ∧
      after (exec .rxresp (reading (List.replicate 11 0) [] false)) State.res = some .short := by
  refine ⟨by decide, by decide, ?_, by decide⟩
  simp [after, exec, execRxresp, reading, State.receiveResponse_full, State.satisfied, State.inTime, State.reset,
    State.returns, judgeResponse, byteAt, Config.sof]

theorem witness_WireHeadersJoinRx (len : Half) :
    (Instr.wireStart len, (0x01 : Byte)) ∈ ([(.wireStart len, 0x01), (.wireStop len, 0x23), (.wireResp len, 0x45),
      (.wireConf len, 0x67), (.wireData len, 0x89)] : List (Instr × Byte)) ∧
    (Instr.wireData len, (0x89 : Byte)) ∈ ([(.wireStart len, 0x01), (.wireStop len, 0x23), (.wireResp len, 0x45),
      (.wireConf len, 0x67), (.wireData len, 0x89)] : List (Instr × Byte)) := by simp

/-! ### Whole-machine rules -/

theorem witness_FaultIsStickyUntilReset_cleared :
    step worn = .next { State.reset with rx := [2], read := calm } ∧ worn.fault = true ∧ State.reset.fault = false :=
  ⟨rfl, rfl, rfl⟩

theorem witness_FaultIsStickyUntilReset_set :
    step (issuing 0 []) = .next { State.reset with fault := true, read := calm } ∧ (issuing 0 []).fault = false := ⟨rfl, rfl⟩

theorem witness_TxOnlyGrows : step (issuing 0x4000005A []) = .next { State.reset with tx := [0x5A], read := calm } := rfl

theorem witness_RegistersHaveTheirWriters :
    step (issuing 0x80000000 [0x5A, 0x89, 0, 4]) =
      .next { State.reset with res := .ok, rtype := 0x89, rlen := 0x0400, read := calm } := rfl

theorem witness_RegistersHaveTheirWriters_crc :
    step { issuing 0x10000000 [] with crc := 5 } = .next { State.reset with read := calm } := rfl

theorem witness_RegistersHaveTheirWriters_rack :
    after (step (issuing 0x90000000 [0, 0, 0, 0, 7, 0, 0, 0, 0, 0, 0, 0])) State.rack = some 7 := rfl

theorem witness_RxLosesBytesOnlyToReceiveOperations :
    step (issuing 0x80000000 [0x5A, 0x89, 0, 4, 6]) =
      .next { State.reset with res := .ok, rtype := 0x89, rlen := 0x0400, rx := [6], read := calm } := rfl

theorem witness_StatusSteersNothing : Instr.txcrc ≠ .rdst := by decide

theorem witness_EveryStepKeepsTheReceiveRecord :
    ReceiveRecord (issuing 0x80000000 [0x5A, 0x89, 0, 4]) ∧
      step (issuing 0x80000000 [0x5A, 0x89, 0, 4]) =
        .next { State.reset with res := .ok, rtype := 0x89, rlen := 0x0400, read := calm } := by
  refine ⟨?_, rfl⟩
  simp [ReceiveRecord, issuing, State.reset]

/-! ### Pseudo-operations and the host's sequence -/

theorem witness_DataPacketWithItsChecksum :
    (List.replicate 1024 (0 : Byte)).length ≤ 1024 ∧ ([] : List Byte).length ≤ 1024 ∧
      1024 < (List.replicate 1025 (0 : Byte)).length := by
  rw [List.length_replicate, List.length_replicate]
  decide

theorem witness_ChunksRebuildTheImage :
    ([7] : List Byte) ∈ chunks [7] ∧ 0 + 1 < (chunks (List.replicate 1025 0)).length := by
  refine ⟨by decide, ?_⟩
  rw [chunks, List.length_map, List.length_range, List.length_replicate]
  decide

/-- The reset state with a verdict and an ack byte. -/
def judged (r : Res) (ack : Byte) : State := { State.reset with res := r, rack := ack }

theorem witness_FailureKindsFollowTheVerdict :
    (judged .short 0).res = .short ∧ (judged .badSof 0).res = .badSof ∧ (judged .badType 0).res = .badType ∧
      (judged .notAck Config.nackCode).res = .notAck ∧ (judged .notAck Config.nackCode).rack = Config.nackCode ∧
      (judged .notAck (Config.nackCode + 1)).rack ≠ Config.nackCode := by
  refine ⟨rfl, rfl, rfl, rfl, rfl, ?_⟩
  simp [judged]

/-- A transfer at a gate, RDST having returned the word given. -/
def atGate (p : Phase) (status : Word) : Transfer := ⟨p, [], [7], ⟨1, 2, 3, 0⟩, State.reset, some status⟩

theorem witness_GatesOpenOnlyOnAck :
    (∀ p ∈ [Phase.awaitStartAck, .awaitConfigAck, .awaitChunkAck 0, .awaitStopAck],
      (atGate p 1).plan = [] ∧ (atGate p 1).acked = true ∧ (atGate p 2).acked = false ∧ (atGate p 1).phase = p) := by
  decide

theorem witness_FailedWriteEndsTheTransfer :
    let t : Transfer := ⟨.sendingChunk 0, [.op (.txcb 7)], [7], ⟨1, 2, 3, 0⟩, State.reset, none⟩
    t.phase ≠ .idle ∧ t.phase ≠ .done ∧ (∀ r, t.phase ≠ .failed r) ∧ t.plan = .op (.txcb 7) :: [] ∧
      emits (.txcb 7) = true ∧ (⟨false, [], calm, true⟩ : HostMove).writeFails = true := by
  refine ⟨by decide, by decide, ?_, rfl, rfl, rfl⟩
  intro r h
  cases h

theorem witness_NothingIsEmittedAfterFailure :
    (hostStep .quiet (atGate .awaitStartAck 3)).phase = .failed .protocolViolation ∧
      (hostStep ⟨true, [], calm, true⟩ ⟨.sendingChunk 0, [.op (.txcb 7)], [7], ⟨1, 2, 3, 0⟩, State.reset, none⟩).phase =
        .failed .transportError := by
  refine ⟨?_, rfl⟩
  simp [hostStep, Transfer.act, Transfer.disturb, Transfer.advance, Transfer.gate, Transfer.acked, ackedBy, atGate, failureKind,
    Res.code]

theorem witness_EveryTransferEnds :
    beginTransfer [7] ⟨1, 2, 3, 0⟩ State.reset = .ok ⟨.idle, [], [7], ⟨1, 2, 3, 0⟩, State.reset, none⟩ := by rfl

/-- Transfers that reach `Done`: of the empty image, of one chunk, and of two, the last of one byte. -/
theorem witness_CompletedTransferIsByteExact :
    ∀ image ∈ [[], [7], List.replicate 1025 (7 : Byte)], ∃ t ms, beginTransfer image ⟨1, 2, 3, 0⟩ State.reset = .ok t ∧
      (∀ m ∈ ms, HostMove.resets m = false) ∧ (hostRun ms t).phase = .done := by
  intro image hi
  have hl : image.length < 2 ^ 32 := by
    simp only [List.mem_cons, List.not_mem_nil, or_false] at hi
    rcases hi with rfl | rfl | rfl
    · decide
    · decide
    · rw [List.length_replicate]; decide
  have hb : beginTransfer image ⟨1, 2, 3, 0⟩ State.reset = .ok ⟨.idle, [], image, ⟨1, 2, 3, 0⟩, State.reset, none⟩ := by
    rw [beginTransfer, if_pos hl]
  obtain ⟨ms, hr, hd⟩ := transfer_completes hb rfl
  exact ⟨_, ms, hb, hr, hd⟩

theorem witness_CompletedTransferIsByteExact_chunks :
    chunkCount ([] : List Byte).length = 0 ∧ chunkCount [(7 : Byte)].length = 1 ∧
      chunkCount (List.replicate 1025 (7 : Byte)).length = 2 := by
  rw [List.length_replicate]
  decide

end Sys2Proof.Tests
end

section
/-! PROOFS. The scope rules (spec/00_scope.md): the answer of a read (O32) and the step of an issued command (O7). -/

namespace Sys2Proof.Machine

/-! ### A read with its answer known

R43 read backwards: what an answer says of the state it was given in. -/

/-- A read is answered `Full` exactly when enough bytes are in time, and then with the first `n` of them. -/
theorem State.memRead_eq_full_iff {s t : State} {n : Nat} {bs : List Byte} :
    s.memRead n = (.full bs, t) ↔
      n ≤ s.inTime.length ∧ s.inTime.take n = bs ∧ s.setRx (s.inTime.drop n ++ s.tooLate) = t := by
  rw [← State.satisfied_iff]
  cases hs : s.satisfied n
  · simp [State.memRead_short hs]
  · simp [State.memRead_full hs]

/-- A read is answered `Short` exactly when fewer bytes are in time, and then with all of them. -/
theorem State.memRead_eq_short_iff {s t : State} {n : Nat} {bs : List Byte} :
    s.memRead n = (.short bs, t) ↔ s.inTime.length < n ∧ s.inTime = bs ∧ s.setRx s.tooLate = t := by
  rw [← Nat.not_le, ← State.satisfied_iff]
  cases hs : s.satisfied n
  · simp [State.memRead_short hs]
  · simp [State.memRead_full hs]

/-! ### What is in time -/

/-- Bytes that arrive without the read expiring are in time, behind what stood in `RX`. -/
@[simp] theorem State.inTime_setRead_unexpired (s : State) (more : List Byte) :
    (s.setRead ⟨more, false⟩).inTime = s.rx ++ more := rfl

/-- Without the read expiring no byte is too late. -/
@[simp] theorem State.tooLate_setRead_unexpired (s : State) (more : List Byte) :
    (s.setRead ⟨more, false⟩).tooLate = [] := rfl

/-- What stands in `RX` is in time, ahead of whatever arrives. -/
theorem State.rx_prefix_inTime (s : State) : s.rx <+: s.inTime := by
  rw [State.inTime]
  split
  · exact List.prefix_rfl
  · exact List.prefix_append _ _

/-! ### What each answer says -/

/-- A `Full` answer has the bytes asked for, and they are gone from the front. -/
theorem State.memRead_full_conserves {s t : State} {n : Nat} {bs : List Byte} (h : s.memRead n = (.full bs, t)) :
    bs.length = n ∧ s.rx ++ s.read.late = bs ++ t.rx := by
  obtain ⟨hn, rfl, rfl⟩ := State.memRead_eq_full_iff.1 h
  refine ⟨List.length_take_of_le hn, ?_⟩
  rw [State.setRx_rx, ← List.append_assoc, List.take_append_drop, State.inTime_append_tooLate]

/-- A `Short` answer has fewer bytes than asked for, those of `RX` first, and leaves only what came too late. -/
theorem State.memRead_short_conserves {s t : State} {n : Nat} {bs : List Byte} (h : s.memRead n = (.short bs, t)) :
    bs.length < n ∧ s.rx <+: bs ∧ t.rx = s.tooLate ∧ s.rx ++ s.read.late = bs ++ t.rx := by
  obtain ⟨hn, rfl, rfl⟩ := State.memRead_eq_short_iff.1 h
  exact ⟨hn, s.rx_prefix_inTime, rfl, s.inTime_append_tooLate.symm⟩

/-! ### Which answers the environment has -/

/-- Once `n` bytes stand in `RX` or are to arrive, the environment can answer `Full`: it lets them all arrive in time. -/
theorem State.exists_memRead_full {s : State} {n : Nat} {more : List Byte} (h : n ≤ (s.rx ++ more).length) :
    ∃ m t, (s.setRead m).memRead n = (.full ((s.rx ++ more).take n), t) ∧ t.rx = (s.rx ++ more).drop n :=
  ⟨⟨more, false⟩, _, State.memRead_eq_full_iff.2 ⟨h, rfl, rfl⟩, by simp⟩

/-- With any fewer the environment can answer `Short`, and every byte is consumed. -/
theorem State.exists_memRead_short {s : State} {n : Nat} {more : List Byte} (h : (s.rx ++ more).length < n) :
    ∃ m t, (s.setRead m).memRead n = (.short (s.rx ++ more), t) ∧ t.rx = [] :=
  ⟨⟨more, false⟩, _, State.memRead_eq_short_iff.2 ⟨h, rfl, rfl⟩, rfl⟩

/-- A read can be short exactly when fewer bytes than asked for stand in `RX`: the environment can withhold all others, and
cannot take back any of these. -/
theorem State.can_be_short_iff {s : State} {n : Nat} :
    (∃ m bs t, (s.setRead m).memRead n = (.short bs, t)) ↔ s.rx.length < n := by
  constructor
  · rintro ⟨m, bs, t, h⟩
    obtain ⟨hlt, hprefix, -, -⟩ := State.memRead_short_conserves h
    exact lt_of_le_of_lt hprefix.length_le hlt
  · intro h
    have hnone : (s.rx ++ []).length < n := by rwa [List.append_nil]
    obtain ⟨m, t, ht, -⟩ := State.exists_memRead_short hnone
    exact ⟨m, _, t, ht⟩

/-- Settles O32: both answers are inverted once (`memRead_eq_full_iff`, `memRead_eq_short_iff`), and the environment's move
for either is to let exactly the bytes named arrive in time. -/
theorem eitherAnswerIsTheEnvironments : Obligations.EitherAnswerIsTheEnvironments := by
  intro s n
  exact ⟨fun _ => State.exists_memRead_full, fun _ => State.exists_memRead_short, State.can_be_short_iff,
    fun _ _ => State.memRead_full_conserves, fun _ _ => State.memRead_short_conserves⟩

/-- Settles O7: the move at the head of the list is performed, and a legal word issued runs as its instruction. -/
theorem stepRunsTheIssuedCommand : Obligations.StepRunsTheIssuedCommand := by
  intro s w m es i hev hdec
  calc step s = perform (.issue w m) (s.setEvents es) := step_event hev
    _ = exec i ((s.setEvents es).setRead m) := issueWord_ok hdec m _

end Sys2Proof.Machine
end

section
/-! PROOFS. The state (spec/10_state.md): arriving bytes (O10), what a step changes in `FAULT`, `TX`, the registers and `RX` (O40 to
O43), that no operation depends on `RES` or `FAULT` (O44), reset values, codes and packed words (O12, O36, O37, O46). -/

namespace Sys2Proof

/-! ### A command word never names a packet header

R75: every row of the command port is a command. -/

theorem port_of_formatN {w : Word} {i j : Instr} (hi : i.port = .command) (h : formatN w i = .ok j) : j.port = .command := by
  unfold formatN at h
  split_ifs at h
  cases h
  exact hi

theorem port_of_formatB {w : Word} {mk : Byte → Instr} {j : Instr} (hmk : ∀ b, (mk b).port = .command)
    (h : formatB w mk = .ok j) : j.port = .command := by
  unfold formatB at h
  split_ifs at h
  cases h
  exact hmk _

theorem port_of_formatH {w : Word} {mk : Byte → Half → Instr} {j : Instr} (hmk : ∀ b n, (mk b n).port = .command)
    (h : formatH w mk = .ok j) : j.port = .command := by
  unfold formatH at h
  split_ifs at h
  cases h
  exact hmk _ _

theorem port_of_decode_command {w : Word} {i : Instr} (h : decode .command w = .ok i) : i.port = .command := by
  change decodeCommand w = .ok i at h
  unfold decodeCommand at h
  split at h
  case h_12 => cases h
  case h_6 => exact port_of_formatH (fun _ _ => rfl) h
  case h_2 | h_4 | h_5 => exact port_of_formatB (fun _ => rfl) h
  all_goals exact port_of_formatN rfl h

namespace Machine

open Safety

/-! ### Arriving bytes

A packet header that arrives runs as its row, and its row appends the very bytes it was decoded from. -/

/-- Whatever row a header word names, it starts with `SOF`, and its row appends its four bytes. -/
theorem exec_of_decodeHeader {w : Word} {i : Instr} (h : decodeHeader w = .ok i) :
    w.extractLsb' 0 8 = Config.sof ∧
      ∀ s : State, exec i s = .next (s.arrive (headerBytes (w.extractLsb' 8 8) (w.extractLsb' 16 16))) := by
  unfold decodeHeader at h
  split_ifs at h with hsof htype htype htype htype htype
  all_goals
    cases h
    exact ⟨not_not.1 hsof, fun s => by rw [htype]; rfl⟩

/-- R61, R72: the header bytes read back from the word of four bytes are those bytes. -/
theorem headerBytes_wordOfBytes {b0 b1 b2 b3 : Byte} (h : b0 = Config.sof) :
    headerBytes ((wordOfBytes b0 b1 b2 b3).extractLsb' 8 8) ((wordOfBytes b0 b1 b2 b3).extractLsb' 16 16) = [b0, b1, b2, b3] := by
  obtain ⟨-, htype, hlen⟩ := wordOfBytes_fields b0 b1 b2 b3
  have hle : le2 (b3 ++ b2) = [b2, b3] := le2_unLe2 b2 b3
  rw [htype, hlen, headerBytes, hle, h, List.cons_append, List.singleton_append]

/-- An arriving packet header does what any other bytes do. -/
theorem exec_of_decodeWire {bs : List Byte} {i : Instr} (h : decodeWire bs = .ok i) (s : State) :
    exec i s = .next (s.arrive bs) := by
  unfold decodeWire at h
  split at h
  next b0 b1 b2 b3 =>
    obtain ⟨hsof, hexec⟩ := exec_of_decodeHeader h
    rw [(wordOfBytes_fields b0 b1 b2 b3).1] at hsof
    rw [hexec, headerBytes_wordOfBytes hsof]
  next => cases h

/-- R31: any bytes that arrive are appended to `RX`. -/
theorem arriveBytes_eq (bs : List Byte) (s : State) : arriveBytes bs s = .next (s.arrive bs) := by
  cases h : decodeWire bs with
  | ok i => rw [arriveBytes_ok h, exec_of_decodeWire h]
  | error r => rw [arriveBytes_error h]

/-- Settles O10: a header's row appends the bytes the header was decoded from, so all arrivals are alike. -/
theorem arrivingBytesAreAppendedToRx : Obligations.ArrivingBytesAreAppendedToRx := by
  intro s bs es hev
  calc step s = perform (.arrive bs) (s.setEvents es) := step_event hev
    _ = .next ((s.setEvents es).arrive bs) := arriveBytes_eq bs _

/-! ### What a step does

`step_cases` with arrivals taken together, for a step that ends in a next state. -/

/-- Idle, a legal command, an illegal command, an arrival, a reset. -/
theorem step_next_cases {s t : State} (h : step s = .next t) :
    t = s ∨
    (∃ w m es i, s.events = .issue w m :: es ∧ decode .command w = .ok i ∧ exec i ((s.setEvents es).setRead m) = .next t) ∨
    (∃ w m es r, s.events = .issue w m :: es ∧ decode .command w = .error r ∧
      t = ((s.setEvents es).setRead m).raiseIllegalCommand) ∨
    (∃ bs es, s.events = .arrive bs :: es ∧ t = (s.setEvents es).arrive bs) ∨
    (∃ es, s.events = .reset :: es ∧ t = (s.setEvents es).applyReset) := by
  rcases step_cases h with ⟨-, ho⟩ | ⟨w, m, es, i, hev, hdec, ho⟩ | ⟨w, m, es, r, hev, hdec, ho⟩ | ⟨bs, es, i, hev, hdec, ho⟩ |
    ⟨bs, es, r, hev, -, ho⟩ | ⟨es, hev, ho⟩
  · exact .inl (Host.Outcome.next.inj ho)
  · exact .inr (.inl ⟨w, m, es, i, hev, hdec, ho.symm⟩)
  · exact .inr (.inr (.inl ⟨w, m, es, r, hev, hdec, Host.Outcome.next.inj ho⟩))
  · rw [exec_of_decodeWire hdec] at ho
    exact .inr (.inr (.inr (.inl ⟨bs, es, hev, Host.Outcome.next.inj ho⟩)))
  · exact .inr (.inr (.inr (.inl ⟨bs, es, hev, Host.Outcome.next.inj ho⟩)))
  · exact .inr (.inr (.inr (.inr ⟨es, hev, Host.Outcome.next.inj ho⟩)))

/-! ### What an instruction does

The table of R20, column "Written by", with `TX` (R30) and the model's input fields; `RX` is left to `exec_reads_nothing` and
`exec_receive_rx_suffix`. -/

/-- What an instruction does to every piece of state but `RX` and `RDATA`, by the columns of R20 and the operations of R30. -/
structure ExecWrites (i : Instr) (s t : State) : Prop where
  /-- `CRC`: CRCINIT, CRCB and TXCB write it -/
  crc : t.crc = crcAfter s.crc i
  /-- `TX`: the four transmit operations append to it -/
  tx : t.tx = s.tx ++ appendedBy s.crc i
  /-- `FAULT`: no instruction writes it -/
  fault : t.fault = s.fault
  /-- the environment's answer stays -/
  read : t.read = s.read
  /-- the moves to come stay -/
  events : t.events = s.events
  /-- `RES`, `RTYPE` and `RLEN`: the two receive operations write them -/
  verdict : ¬ (i = .rxhdr ∨ i = .rxresp) → t.res = s.res ∧ t.rtype = s.rtype ∧ t.rlen = s.rlen
  /-- `RACK`: RXRESP writes it -/
  rack : i ≠ .rxresp → t.rack = s.rack

/-- Every instruction has a next state, and writes only what R20 and R30 let it write. -/
theorem exec_writes (i : Instr) (s : State) : ∃ t, exec i s = .next t ∧ ExecWrites i s t := by
  cases i
  case rxhdr =>
    obtain ⟨hcrc, hrack, hfault, htx, hread, hevents⟩ := s.receiveHeader_frame
    exact ⟨_, rfl, by constructor <;> simp [*, crcAfter, appendedBy]⟩
  case rxresp =>
    obtain ⟨hcrc, hfault, htx, hread, hevents⟩ := s.receiveResponse_frame Config.ackCode
    exact ⟨_, rfl, by constructor <;> simp [*, crcAfter, appendedBy]⟩
  all_goals exact ⟨_, rfl, by constructor <;> simp [crcAfter, appendedBy, Config.crcInit, headerBytes, Config.sof, le2, le4]⟩

/-- The same for a run whose next state is known. -/
theorem execWrites_of_exec {i : Instr} {s t : State} (h : exec i s = .next t) : ExecWrites i s t := by
  obtain ⟨u, hu, hw⟩ := exec_writes i s
  cases h.symm.trans hu
  exact hw

/-- R147: a receive operation leaves in `RX` a suffix of what stood there and arrived. -/
theorem exec_receive_rx_suffix {i : Instr} {s t : State} (hi : i = .rxhdr ∨ i = .rxresp) (h : exec i s = .next t) :
    t.rx <:+ s.rx ++ s.read.late := by
  obtain ⟨hheader, hresponse⟩ := s.receive_rx_suffix Config.ackCode
  rcases hi with rfl | rfl
  · cases h
    exact hheader
  · cases h
    exact hresponse

/-- R40: an operation outside the four transmit operations appends nothing. -/
theorem appendedBy_eq_nil_of_not_emits {i : Instr} (h : emits i = false) (crc : Word) : appendedBy crc i = [] := by
  cases i
  case txb => cases h
  case txcb => cases h
  case txhdr => cases h
  case txcrc => cases h
  all_goals rfl

/-- R20, R22: the three writers of `CRC`. -/
theorem crcAfter_writers {i : Instr} {crc : Word} (h : crcAfter crc i ≠ crc) :
    i = .crcinit ∨ (∃ b, i = .crcb b) ∨ ∃ b, i = .txcb b := by
  cases i
  case crcinit => exact .inl rfl
  case crcb b => exact .inr (.inl ⟨b, rfl⟩)
  case txcb b => exact .inr (.inr ⟨b, rfl⟩)
  all_goals exact absurd rfl h

/-! ### Which step changes which piece of state -/

/-- Settles O40: a legal command leaves `FAULT` as it was, an illegal one sets it, a reset clears it. -/
theorem faultIsStickyUntilReset : Obligations.FaultIsStickyUntilReset := by
  intro s t h
  rcases step_next_cases h with rfl | ⟨w, m, es, i, -, -, hexec⟩ |
    ⟨w, m, es, r, hev, hdec, rfl⟩ | ⟨bs, es, -, rfl⟩ | ⟨es, hev, rfl⟩
  · simp_all
  · have hkept : t.fault = s.fault := (execWrites_of_exec hexec).fault
    simp_all
  · exact ⟨by simp, fun _ _ => ⟨w, m, es, r, hev, hdec⟩⟩
  · simp_all
  · exact ⟨fun _ _ => ⟨es, hev⟩, by simp⟩

/-- Settles O41: a legal command appends `appendedBy`, which is nothing unless it is a transmit operation. -/
theorem txOnlyGrows : Obligations.TxOnlyGrows := by
  intro s t h
  rcases step_next_cases h with rfl | ⟨w, m, es, i, hev, hdec, hexec⟩ |
    ⟨w, m, es, r, -, -, rfl⟩ | ⟨bs, es, -, rfl⟩ | ⟨es, hev, -⟩
  · exact .inr (.inl rfl)
  · have htx : t.tx = s.tx ++ appendedBy s.crc i := (execWrites_of_exec hexec).tx
    cases hemits : emits i with
    | true => exact .inr (.inr ⟨w, m, es, i, hev, hdec, hemits, htx⟩)
    | false => exact .inr (.inl (by rw [htx, appendedBy_eq_nil_of_not_emits hemits, List.append_nil]))
  · exact .inr (.inl rfl)
  · exact .inr (.inl rfl)
  · exact .inl ⟨es, hev⟩

/-- Settles O42: only a legal command can write these registers, and `ExecWrites` names the commands that do. -/
theorem registersHaveTheirWriters : Obligations.RegistersHaveTheirWriters := by
  intro s t h
  rcases step_next_cases h with rfl | ⟨w, m, es, i, hev, hdec, hexec⟩ |
    ⟨w, m, es, r, -, -, rfl⟩ | ⟨bs, es, -, rfl⟩ | ⟨es, hev, -⟩
  · simp
  · have hw := execWrites_of_exec hexec
    refine .inr ⟨fun hne => ?_, fun hne => ?_, fun hne => ?_⟩
    · exact ⟨w, m, es, i, hev, hdec, crcAfter_writers (crc := s.crc) fun he => hne (hw.crc.trans he)⟩
    · refine ⟨w, m, es, i, hev, hdec, ?_⟩
      by_contra hi
      obtain ⟨hres, hrtype, hrlen⟩ := hw.verdict hi
      rcases hne with hne | hne | hne
      · exact hne hres
      · exact hne hrtype
      · exact hne hrlen
    · have hi : i = .rxresp := by
        by_contra hi
        exact hne (hw.rack hi)
      exact ⟨w, m, es, hev, hi ▸ hdec⟩
  · simp
  · simp
  · exact .inl ⟨es, hev⟩

/-- Settles O43: a legal command word never names a packet header, so it either reads `RX` from the front or leaves it alone. -/
theorem rxLosesBytesOnlyToReceiveOperations : Obligations.RxLosesBytesOnlyToReceiveOperations := by
  intro s t h
  rcases step_next_cases h with rfl | ⟨w, m, es, i, hev, hdec, hexec⟩ |
    ⟨w, m, es, r, -, -, rfl⟩ | ⟨bs, es, hev, rfl⟩ | ⟨es, -, rfl⟩
  · exact .inl rfl
  · by_cases hi : i = .rxhdr ∨ i = .rxresp
    · exact .inr (.inr ⟨w, m, es, i, hev, hdec, hi, exec_receive_rx_suffix hi hexec⟩)
    · obtain ⟨hrxhdr, hrxresp⟩ := not_or.1 hi
      obtain ⟨u, hu, hrx, -⟩ := exec_reads_nothing (port_of_decode_command hdec) hrxhdr hrxresp ((s.setEvents es).setRead m)
      cases hexec.symm.trans hu
      exact .inl hrx
  · exact .inl rfl
  · exact .inr (.inl ⟨bs, es, hev, rfl⟩)
  · exact .inl rfl

/-! ### `RES` and `FAULT` steer nothing -/

/-- The state with any other `RES` and `FAULT`. -/
def State.withStatus (s : State) (r : Res) (f : Bool) : State := { s with res := r, fault := f }

/-- A read of `RX` looks at neither. -/
theorem State.satisfied_withStatus (s : State) (r : Res) (f : Bool) (n : Nat) :
    (s.withStatus r f).satisfied n = s.satisfied n := rfl

/-- `RXHDR` overwrites `RES` and carries `FAULT` along. -/
theorem State.receiveHeader_withStatus (s : State) (r : Res) (f : Bool) :
    (s.withStatus r f).receiveHeader = { s.receiveHeader with fault := f } := by
  cases h : s.satisfied 4
  · rw [State.receiveHeader_short h, State.receiveHeader_short ((s.satisfied_withStatus r f 4).trans h)]
    rfl
  · rw [State.receiveHeader_full h, State.receiveHeader_full ((s.satisfied_withStatus r f 4).trans h)]
    rfl

/-- `RXRESP` overwrites `RES` and carries `FAULT` along. -/
theorem State.receiveResponse_withStatus (s : State) (r : Res) (f : Bool) (a : Byte) :
    (s.withStatus r f).receiveResponse a = { s.receiveResponse a with fault := f } := by
  cases h : s.satisfied 12
  · rw [State.receiveResponse_short a h, State.receiveResponse_short a ((s.satisfied_withStatus r f 12).trans h)]
    rfl
  · rw [State.receiveResponse_full a h, State.receiveResponse_full a ((s.satisfied_withStatus r f 12).trans h)]
    rfl

/-- R33: a run with any other `RES` and `FAULT` ends in the same state but for the two, and for what RDST returns. -/
theorem exec_withStatus {i : Instr} {s t : State} (h : exec i s = .next t) (r : Res) (f : Bool) :
    ∃ v, (i ≠ .rdst → v = t.rdata) ∧
      exec i (s.withStatus r f) =
        .next { t with res := if i = .rxhdr ∨ i = .rxresp then t.res else r, fault := f, rdata := v } := by
  cases i
  case rxhdr =>
    cases h
    exact ⟨none, fun _ => rfl, by simp only [exec, execRxhdr, State.receiveHeader_withStatus]; rfl⟩
  case rxresp =>
    cases h
    exact ⟨none, fun _ => rfl, by simp only [exec, execRxresp, State.receiveResponse_withStatus]; rfl⟩
  case rdst =>
    cases h
    exact ⟨_, fun hne => absurd rfl hne, rfl⟩
  all_goals
    cases h
    exact ⟨_, fun _ => rfl, rfl⟩

/-- Settles O44: the run with the other `RES` and `FAULT` is `exec_withStatus` of the first one. -/
theorem statusSteersNothing : Obligations.StatusSteersNothing := by
  intro i s r f
  obtain ⟨t, ht, hw⟩ := exec_writes i s
  obtain ⟨v, hv, hu⟩ := exec_withStatus ht r f
  refine ⟨t, _, ht, hu, rfl, rfl, rfl, rfl, rfl, rfl, rfl, rfl, hw.fault, rfl, ?_, hv⟩
  split_ifs with hi
  · rfl
  · exact ⟨(hw.verdict hi).1, rfl⟩

/-! ### Reset values, codes and packed words -/

/-- Settles O12: `State.reset` holds the values of R36 as it is written, and the reset event copies `RX`. -/
theorem resetStateHoldsTheResetValues : Obligations.ResetStateHoldsTheResetValues :=
  ⟨rfl, rfl, rfl, rfl, rfl, rfl, rfl, fun s => ⟨s.applyReset, rfl, s.applyReset_rx⟩⟩

/-- Settles O36: the codes of R23 one by one. -/
theorem resultCodes : Obligations.ResultCodes := ⟨rfl, rfl, rfl, rfl, rfl, rfl⟩

/-- R28: the STATUS word, field by field. -/
theorem statusWord_fields (s : State) :
    (statusWord s).extractLsb' 0 3 = s.res.code ∧ (statusWord s).extractLsb' 3 5 = 0 ∧
      (statusWord s).getLsbD 8 = s.fault ∧ (statusWord s).extractLsb' 9 23 = 0 := by
  refine ⟨?_, ?_, ?_, ?_⟩
  · exact BitVec.extractLsb'_append_eq_right
  · rw [statusWord, BitVec.extractLsb'_append_eq_of_le (by decide)]
    exact BitVec.extractLsb'_append_eq_right
  · simp only [statusWord, BitVec.getLsbD_append]
    simp
  · rw [statusWord, BitVec.extractLsb'_append_eq_of_le (by decide), BitVec.extractLsb'_append_eq_of_le (by decide)]
    exact BitVec.extractLsb'_append_eq_left

/-- R29: the RXINFO word, field by field. -/
theorem rxinfoWord_fields (s : State) :
    (rxinfoWord s).extractLsb' 0 8 = s.rack ∧ (rxinfoWord s).extractLsb' 8 8 = s.rtype ∧
      (rxinfoWord s).extractLsb' 16 16 = s.rlen := by
  refine ⟨?_, ?_, ?_⟩
  · exact BitVec.extractLsb'_append_eq_right
  · rw [rxinfoWord, BitVec.extractLsb'_append_eq_of_le (by decide)]
    exact BitVec.extractLsb'_append_eq_right
  · rw [rxinfoWord, BitVec.extractLsb'_append_eq_of_le (by decide)]
    exact BitVec.extractLsb'_append_eq_left

/-- Settles O37: RDST and RDRX return the packed words, whose fields are read back one at a time. -/
theorem packedWordsHoldTheirFields : Obligations.PackedWordsHoldTheirFields := by
  intro s
  obtain ⟨hres, hlow, hfault, hhigh⟩ := statusWord_fields s
  exact ⟨⟨_, rfl, s.returns_rdata _⟩, ⟨_, rfl, s.returns_rdata _⟩, hres, hlow, hfault, hhigh, rxinfoWord_fields s⟩

/-- Settles O46: `RES` is NONE after reset, with the three zeros that go with it; the other verdicts are not there. -/
theorem receiveRecordHoldsAtReset : Obligations.ReceiveRecordHoldsAtReset :=
  ⟨fun _ => ⟨rfl, rfl, rfl⟩, nofun, nofun, nofun⟩

end Machine

end Sys2Proof
end

section
/-! PROOFS. The encodings (spec/30_encoding.md): decoder and encoder undo each other (O2, O3), the rows of the opcode map and of the
header types (O4, O5), the illegal command words (O6), words written out (O1), and the packet headers on the link (O9, O38). -/

namespace Sys2Proof

/-! ### A word from its fields -/

/-- R74: two words that agree in their four command fields are one word. -/
theorem word_ext_command {w v : Word} (hop : opField w = opField v) (hmbz : mbzField w = mbzField v)
    (hmid : w.extractLsb' 8 16 = v.extractLsb' 8 16) (hlow : w.extractLsb' 0 8 = v.extractLsb' 0 8) : w = v := by
  unfold opField at hop
  unfold mbzField at hmbz
  rw [word_eq_fields w, word_eq_fields v, hop, hmbz, hmid, hlow]

/-- R61: two words that agree in their three header fields are one word. -/
theorem word_ext_header {w v : Word} (hlen : w.extractLsb' 16 16 = v.extractLsb' 16 16)
    (htype : w.extractLsb' 8 8 = v.extractLsb' 8 8) (hsof : w.extractLsb' 0 8 = v.extractLsb' 0 8) : w = v := by
  rw [word_eq_header w, word_eq_header v, hlen, htype, hsof]

theorem commandWord_of_fields {w : Word} {op : BitVec 4} (hop : opField w = op) (hmbz : mbzField w = 0)
    (hmid : w.extractLsb' 8 16 = 0) : commandWord op (w.extractLsb' 0 8) = w := by
  apply word_ext_command <;> simp [hop, hmbz, hmid]

theorem txhdrWord_of_fields {w : Word} (hop : opField w = 0x6) (hmbz : mbzField w = 0) :
    txhdrWord (w.extractLsb' 0 8) (w.extractLsb' 8 16) = w := by
  apply word_ext_command <;> simp [hop, hmbz]

theorem headerWord_of_fields {w : Word} {ptype : Byte} (hsof : w.extractLsb' 0 8 = Config.sof)
    (htype : w.extractLsb' 8 8 = ptype) : headerWord ptype (w.extractLsb' 16 16) = w := by
  apply word_ext_header <;> simp [hsof, htype]

/-! ### The three command formats read backwards -/

/-- `op` back from its number. -/
theorem opField_of_toNat {w : Word} {n : Nat} (hop : (opField w).toNat = n) : opField w = BitVec.ofNat 4 n := by
  rw [← hop, BitVec.ofNat_toNat, BitVec.setWidth_eq]

theorem eq_of_formatN {w : Word} {n : Nat} {i j : Instr} (hop : (opField w).toNat = n)
    (h : formatN w i = .ok j) : i = j ∧ commandWord (BitVec.ofNat 4 n) 0 = w := by
  unfold formatN at h
  split_ifs at h with hmbz hlow
  have hzero : w.extractLsb' 0 24 = 0 := not_not.1 hlow
  have hmid : w.extractLsb' 8 16 = 0 := by
    rw [← BitVec.extractLsb'_extractLsb'_of_le (len' := 24) (by decide), hzero]
    rfl
  have hbyte : w.extractLsb' 0 8 = 0 := by
    rw [← BitVec.extractLsb'_extractLsb'_of_le (len' := 24) (by decide), hzero]
    rfl
  cases h
  exact ⟨rfl, hbyte ▸ commandWord_of_fields (opField_of_toNat hop) (not_not.1 hmbz) hmid⟩

theorem eq_of_formatB {w : Word} {n : Nat} {mk : Byte → Instr} {j : Instr} (hop : (opField w).toNat = n)
    (h : formatB w mk = .ok j) : ∃ b, mk b = j ∧ commandWord (BitVec.ofNat 4 n) b = w := by
  unfold formatB at h
  split_ifs at h with hmbz hmid
  cases h
  exact ⟨_, rfl, commandWord_of_fields (opField_of_toNat hop) (not_not.1 hmbz) (not_not.1 hmid)⟩

theorem eq_of_formatH {w : Word} {mk : Byte → Half → Instr} {j : Instr} (hop : (opField w).toNat = 0x6)
    (h : formatH w mk = .ok j) : ∃ ptype len, mk ptype len = j ∧ txhdrWord ptype len = w := by
  unfold formatH at h
  split_ifs at h with hmbz
  cases h
  exact ⟨_, _, rfl, txhdrWord_of_fields (opField_of_toNat hop) (not_not.1 hmbz)⟩

/-! ### Decoder and encoder undo each other -/

theorem formatB_commandWord (op : BitVec 4) (b : Byte) (mk : Byte → Instr) :
    formatB (commandWord op b) mk = .ok (mk b) := by simp [formatB]

theorem formatH_txhdrWord (ptype : Byte) (len : Half) (mk : Byte → Half → Instr) :
    formatH (txhdrWord ptype len) mk = .ok (mk ptype len) := by simp [formatH]

/-- Settles O2: the command words without an operand are eight fixed words; the others have their fields read back by the lemmas of
Laws/Encoding.lean. -/
theorem decodeOfEncodeIsTheInstruction : Obligations.DecodeOfEncodeIsTheInstruction := by
  intro i
  cases i
  case crcb b | txb b | txcb b =>
    simp [Instr.port, encode, decode, decodeCommand, formatB_commandWord]
  case txhdr ptype len =>
    simp [Instr.port, encode, decode, decodeCommand, formatH_txhdrWord]
  case wireStart len | wireStop len | wireResp len | wireConf len | wireData len =>
    simp [Instr.port, encode, decode, decodeHeader, Config.typeStart, Config.typeStop, Config.typeResp, Config.typeConf,
      Config.typeData]
  all_goals rfl

/-- R75: a command word that decodes is the word of its instruction. -/
theorem encode_of_decodeCommand {w : Word} {i : Instr} (h : decodeCommand w = .ok i) : encode i = w := by
  unfold decodeCommand at h
  split at h
  case h_12 => cases h
  case h_6 hop =>
    obtain ⟨ptype, len, rfl, hw⟩ := eq_of_formatH hop h
    exact hw
  case h_2 hop | h_4 hop | h_5 hop =>
    obtain ⟨b, rfl, hw⟩ := eq_of_formatB hop h
    exact hw
  all_goals
    obtain ⟨rfl, hw⟩ := eq_of_formatN ‹_› h
    exact hw

/-- R61, R62: a header word that decodes is the word of its packet header, and only headers are read at the link. -/
theorem encode_of_decodeHeader {w : Word} {i : Instr} (h : decodeHeader w = .ok i) : i.port = .link ∧ encode i = w := by
  unfold decodeHeader at h
  split_ifs at h with hsof htype htype htype htype htype
  all_goals
    cases h
    exact ⟨rfl, headerWord_of_fields (not_not.1 hsof) htype⟩

/-- Settles O3: each row's fields are read off the decoder's checks, and a word is its fields. -/
theorem encodeOfDecodeIsTheWord : Obligations.EncodeOfDecodeIsTheWord := by
  intro p w i h
  cases p
  case command => exact ⟨port_of_decode_command h, encode_of_decodeCommand h⟩
  case link => exact encode_of_decodeHeader h

/-! ### The rows of the opcode table -/

/-- The word selects the instruction's row (R75, R62). -/
def Instr.selectedBy (i : Instr) (w : Word) : Prop := w &&& i.row.mask = i.row.pattern

/-- The instruction of the same row with the operands that stand in the word. -/
def Instr.withOperandsOf (i : Instr) (w : Word) : Instr :=
  match i with
  | .crcb _ => .crcb (w.extractLsb' 0 8)
  | .txb _ => .txb (w.extractLsb' 0 8)
  | .txcb _ => .txcb (w.extractLsb' 0 8)
  | .txhdr _ _ => .txhdr (w.extractLsb' 0 8) (w.extractLsb' 8 16)
  | .wireStart _ => .wireStart (w.extractLsb' 16 16)
  | .wireStop _ => .wireStop (w.extractLsb' 16 16)
  | .wireResp _ => .wireResp (w.extractLsb' 16 16)
  | .wireConf _ => .wireConf (w.extractLsb' 16 16)
  | .wireData _ => .wireData (w.extractLsb' 16 16)
  | i => i

theorem Instr.withOperandsOf_row (i : Instr) (w : Word) : (i.withOperandsOf w).row = i.row := by cases i <;> rfl

theorem Instr.withOperandsOf_port (i : Instr) (w : Word) : (i.withOperandsOf w).port = i.port := by cases i <;> rfl

/-- A field that the mask covers is fixed by the row. -/
theorem field_of_masked {w m v : Word} {start len : Nat} (h : w &&& m = v)
    (hm : m.extractLsb' start len = BitVec.allOnes len) : w.extractLsb' start len = v.extractLsb' start len := by
  rw [← h, BitVec.extractLsb'_and, hm, BitVec.and_allOnes]

theorem commandWord_of_masked {w : Word} {op : BitVec 4} (h : w &&& 0xFFFFFF00 = commandWord op 0) :
    commandWord op (w.extractLsb' 0 8) = w :=
  commandWord_of_fields ((field_of_masked h rfl).trans (opField_commandWord op 0))
    ((field_of_masked h rfl).trans (mbzField_commandWord op 0)) ((field_of_masked h rfl).trans (zeroOfB_commandWord op 0))

theorem txhdrWord_of_masked {w : Word} (h : w &&& 0xFF000000 = txhdrWord 0 0) :
    txhdrWord (w.extractLsb' 0 8) (w.extractLsb' 8 16) = w :=
  txhdrWord_of_fields ((field_of_masked h rfl).trans (opField_txhdrWord 0 0))
    ((field_of_masked h rfl).trans (mbzField_txhdrWord 0 0))

theorem headerWord_of_masked {w : Word} {ptype : Byte} (h : w &&& 0x0000FFFF = headerWord ptype 0) :
    headerWord ptype (w.extractLsb' 16 16) = w :=
  headerWord_of_fields ((field_of_masked h rfl).trans (sof_headerWord ptype 0))
    ((field_of_masked h rfl).trans (type_headerWord ptype 0))

/-- A word that selects a row is a word of that row: what the mask leaves out are the operands. -/
theorem encode_withOperandsOf {i : Instr} {w : Word} (h : i.selectedBy w) : encode (i.withOperandsOf w) = w := by
  cases i
  case crcb | txb | txcb => exact commandWord_of_masked h
  case txhdr => exact txhdrWord_of_masked h
  case wireStart | wireStop | wireResp | wireConf | wireData => exact headerWord_of_masked h
  all_goals exact (BitVec.and_allOnes.symm.trans h).symm

/-- R75, R62: the word of an instruction selects its row. -/
theorem Instr.selectedBy_encode (i : Instr) : i.selectedBy (encode i) := by
  cases i
  case crcinit => exact Laws.SelectsRow.crcinit
  case crcb b => exact Laws.SelectsRow.crcb b
  case crcrd => exact Laws.SelectsRow.crcrd
  case txb b => exact Laws.SelectsRow.txb b
  case txcb b => exact Laws.SelectsRow.txcb b
  case txhdr ptype len => exact Laws.SelectsRow.txhdr ptype len
  case txcrc => exact Laws.SelectsRow.txcrc
  case rxhdr => exact Laws.SelectsRow.rxhdr
  case rxresp => exact Laws.SelectsRow.rxresp
  case rdst => exact Laws.SelectsRow.rdst
  case rdrx => exact Laws.SelectsRow.rdrx
  case wireStart len => exact Laws.SelectsRow.wireStart len
  case wireStop len => exact Laws.SelectsRow.wireStop len
  case wireResp len => exact Laws.SelectsRow.wireResp len
  case wireConf len => exact Laws.SelectsRow.wireConf len
  case wireData len => exact Laws.SelectsRow.wireData len

theorem selectedBy_of_decode {p : Port} {w : Word} {i : Instr} (h : decode p w = .ok i) : i.selectedBy w := by
  obtain ⟨-, rfl⟩ := encodeOfDecodeIsTheWord p w i h
  exact i.selectedBy_encode

/-- R75, R62: a word decodes to a row, with the operands that stand in it, exactly when it selects the row. -/
theorem decode_withOperandsOf_iff (i : Instr) (w : Word) :
    decode i.port w = .ok (i.withOperandsOf w) ↔ i.selectedBy w := by
  constructor
  · intro h
    have hsel := selectedBy_of_decode h
    rwa [Instr.selectedBy, i.withOperandsOf_row w] at hsel
  · intro h
    have hdec := decodeOfEncodeIsTheInstruction (i.withOperandsOf w)
    rwa [encode_withOperandsOf h, i.withOperandsOf_port w] at hdec

/-! ### The opcode map of R75 -/

/-- One instruction for each of the eleven rows of the command port, in the order of the table. -/
def commandRows : List Instr :=
  [.crcinit, .crcb 0, .crcrd, .txb 0, .txcb 0, .txhdr 0 0, .txcrc, .rxhdr, .rxresp, .rdst, .rdrx]

/-- The table's entry of an instruction: match and mask. -/
def Instr.tableEntry (i : Instr) : Word × Word := (i.row.pattern, i.row.mask)

theorem port_of_mem_commandRows {i : Instr} (h : i ∈ commandRows) : i.port = .command := by
  revert i
  decide

/-- Every command belongs to one of the eleven rows. -/
theorem exists_commandRow {i : Instr} (h : i.port = .command) : ∃ k ∈ commandRows, k.row = i.row := by
  cases i
  case wireStart | wireStop | wireResp | wireConf | wireData => cases h
  all_goals simp [commandRows, Instr.row]

/-- Two commands whose rows one word selects are of one row: the word decodes to both. -/
theorem row_eq_of_selectedBy {i k : Instr} {w : Word} (hport : i.port = k.port) (hi : i.selectedBy w) (hk : k.selectedBy w) :
    i.row = k.row := by
  have hdi := (decode_withOperandsOf_iff i w).2 hi
  have hdk := (decode_withOperandsOf_iff k w).2 hk
  rw [hport, hdk, Except.ok.injEq] at hdi
  rw [← i.withOperandsOf_row w, ← hdi, k.withOperandsOf_row w]

/-- R75: a command word is illegal exactly when it selects no row. -/
theorem decode_command_error_iff (w : Word) :
    (∃ r, decode .command w = .error r) ↔ ∀ i ∈ commandRows, ¬ i.selectedBy w := by
  constructor
  · rintro ⟨r, hr⟩ i hi hsel
    have hok := (decode_withOperandsOf_iff i w).2 hsel
    rw [port_of_mem_commandRows hi, hr] at hok
    cases hok
  · intro hnone
    cases hdec : decode .command w with
    | error r => exact ⟨r, rfl⟩
    | ok i =>
      obtain ⟨k, hk, hrow⟩ := exists_commandRow (port_of_decode_command hdec)
      have hsel := selectedBy_of_decode hdec
      rw [Instr.selectedBy, ← hrow] at hsel
      exact absurd hsel (hnone k hk)

/-- R75: the rows of the table are disjoint. -/
theorem commandRows_disjoint :
    commandRows.Pairwise fun i k => ∀ w, ¬ (i.selectedBy w ∧ k.selectedBy w) := by
  have hrows : commandRows.Pairwise fun i k => i.row ≠ k.row := by decide
  refine hrows.imp_of_mem fun hi hk hne w hsel => hne ?_
  exact row_eq_of_selectedBy ((port_of_mem_commandRows hi).trans (port_of_mem_commandRows hk).symm) hsel.1 hsel.2

/-- Settles O4: the table's entries are those of `commandRows`; each row is `decode_withOperandsOf_iff`, and a word that selects
two rows would decode to both. -/
theorem commandRowsSelectDisjointly : Obligations.CommandRowsSelectDisjointly := by
  refine ⟨fun w => ⟨?_, ?_, ?_, ?_, ?_, ?_, ?_, ?_, ?_, ?_, ?_, ?_⟩, ?_⟩
  · exact decode_withOperandsOf_iff .crcinit w
  · exact ⟨fun ⟨_, h⟩ => selectedBy_of_decode h, fun h => ⟨_, (decode_withOperandsOf_iff (.crcb 0) w).2 h⟩⟩
  · exact decode_withOperandsOf_iff .crcrd w
  · exact ⟨fun ⟨_, h⟩ => selectedBy_of_decode h, fun h => ⟨_, (decode_withOperandsOf_iff (.txb 0) w).2 h⟩⟩
  · exact ⟨fun ⟨_, h⟩ => selectedBy_of_decode h, fun h => ⟨_, (decode_withOperandsOf_iff (.txcb 0) w).2 h⟩⟩
  · exact ⟨fun ⟨_, _, h⟩ => selectedBy_of_decode h, fun h => ⟨_, _, (decode_withOperandsOf_iff (.txhdr 0 0) w).2 h⟩⟩
  · exact decode_withOperandsOf_iff .txcrc w
  · exact decode_withOperandsOf_iff .rxhdr w
  · exact decode_withOperandsOf_iff .rxresp w
  · exact decode_withOperandsOf_iff .rdst w
  · exact decode_withOperandsOf_iff .rdrx w
  · exact (decode_command_error_iff w).trans
      (List.forall_mem_map (f := Instr.tableEntry) (P := fun row => w &&& row.2 ≠ row.1)).symm
  · change (commandRows.map Instr.tableEntry).Pairwise _
    exact List.pairwise_map.2 commandRows_disjoint

/-! ### The packet types of R62 -/

/-- R71 (a), (b): the two checks of a header. -/
theorem decode_link_error_iff (w : Word) :
    (∃ r, decode .link w = .error r) ↔
      w.extractLsb' 0 8 ≠ Config.sof ∨ w.extractLsb' 8 8 ∉ Config.packetTypes := by
  simp only [decode, decodeHeader, Config.packetTypes]
  split_ifs <;> simp_all

/-- Settles O5: each type is `decode_withOperandsOf_iff` of its row. -/
theorem headerRowsSelectByType : Obligations.HeaderRowsSelectByType := fun w =>
  ⟨decode_withOperandsOf_iff (.wireStart 0) w, decode_withOperandsOf_iff (.wireStop 0) w,
    decode_withOperandsOf_iff (.wireResp 0) w, decode_withOperandsOf_iff (.wireConf 0) w,
    decode_withOperandsOf_iff (.wireData 0) w, decode_link_error_iff w⟩

/-! ### Illegal command words -/

/-- R77 (b), (c). -/
theorem formatN_error_iff (w : Word) (i : Instr) :
    (∃ r, formatN w i = .error r) ↔ mbzField w ≠ 0 ∨ w.extractLsb' 0 24 ≠ 0 := by
  unfold formatN
  split_ifs <;> simp_all

/-- R77 (b), (d). -/
theorem formatB_error_iff (w : Word) (mk : Byte → Instr) :
    (∃ r, formatB w mk = .error r) ↔ mbzField w ≠ 0 ∨ w.extractLsb' 8 16 ≠ 0 := by
  unfold formatB
  split_ifs <;> simp_all

/-- R77 (b). -/
theorem formatH_error_iff (w : Word) (mk : Byte → Half → Instr) :
    (∃ r, formatH w mk = .error r) ↔ mbzField w ≠ 0 := by
  unfold formatH
  split_ifs <;> simp_all

/-- R77: the illegal command words, by `op` and the three fields that must be zero. -/
theorem decodeCommand_error_iff (w : Word) :
    (∃ r, decodeCommand w = .error r) ↔
      ((opField w).toNat = 0 ∨ 0xC ≤ (opField w).toNat) ∨ mbzField w ≠ 0 ∨
      ((opField w).toNat ∈ [0x1, 0x3, 0x7, 0x8, 0x9, 0xA, 0xB] ∧ w.extractLsb' 0 24 ≠ 0) ∨
      ((opField w).toNat ∈ [0x2, 0x4, 0x5] ∧ w.extractLsb' 8 16 ≠ 0) := by
  unfold decodeCommand
  split
  case h_12 =>
    have hop : (opField w).toNat = 0 ∨ 0xC ≤ (opField w).toNat := by
      simp only [imp_false] at *
      omega
    exact iff_of_true ⟨_, rfl⟩ (.inl hop)
  case h_6 hop => rw [formatH_error_iff, hop]; simp
  case h_2 hop | h_4 hop | h_5 hop => rw [formatB_error_iff, hop]; simp
  case h_1 hop | h_3 hop | h_7 hop | h_8 hop | h_9 hop | h_10 hop | h_11 hop => rw [formatN_error_iff, hop]; simp

/-- Settles O6: the words by the decoder's format of each `op`, the effect by `issueWord_error`. -/
theorem illegalCommandWordsByBits : Obligations.IllegalCommandWordsByBits := by
  refine fun w => ⟨decodeCommand_error_iff w, fun ⟨r, hr⟩ s m es hev => ?_⟩
  calc Machine.step s = Machine.perform (.issue w m) (s.setEvents es) := Machine.step_event hev
    _ = .next ((s.setEvents es).setRead m).raiseIllegalCommand := Machine.issueWord_error hr m _

/-- Settles O1: the decoder evaluated at eight words. -/
theorem wordsOfTheTablesDecode : Obligations.WordsOfTheTablesDecode := ⟨rfl, rfl, rfl, rfl, rfl, rfl, rfl, rfl⟩

/-! ### Packet headers on the link -/

namespace Machine

/-- Settles O9: the move at the head of the list is performed, and a header that arrives runs as its row. -/
theorem stepRunsTheArrivedHeader : Obligations.StepRunsTheArrivedHeader := by
  intro s bs es i hev hdec
  calc step s = perform (.arrive bs) (s.setEvents es) := step_event hev
    _ = exec i (s.setEvents es) := arriveBytes_ok hdec _

/-- Settles O38: each of the five rows appends `headerBytes` of its type code. -/
theorem wireHeadersJoinRx : Obligations.WireHeadersJoinRx := by
  intro s len i code hrow
  simp only [List.mem_cons, Prod.mk.injEq, List.not_mem_nil, or_false] at hrow
  rcases hrow with ⟨rfl, rfl⟩ | ⟨rfl, rfl⟩ | ⟨rfl, rfl⟩ | ⟨rfl, rfl⟩ | ⟨rfl, rfl⟩
  all_goals rfl

end Machine

end Sys2Proof
end

section
/-! PROOFS. The CRC engine (spec/40_crc.md): its operations and CHECKSUM (O14, O16, O47), the procedure and the table of the byte
step (O18, O19), corner cases and laws of the checksum (O17, O20, O21), the checksum as a polynomial remainder (O22), and what a
zero byte does to the register (O15). -/

namespace Sys2Proof.Machine

/-! ### The operations -/

/-- Settles O14: `execCrcinit` written out. -/
theorem crcinitSetsAllOnes : Obligations.CrcinitSetsAllOnes := fun _ => rfl

/-- Settles O16: `execCrcrd` written out. -/
theorem crcrdReturnsCrc : Obligations.CrcrdReturnsCrc := fun _ => rfl

/-- Settles O47: CRCINIT, then the bytes by `execAll_crcb`, then CRCRD. -/
theorem checksumLeavesAndReturnsTheCrc : Obligations.ChecksumLeavesAndReturnsTheCrc := by
  intro bs s
  constructor
  · calc execAll (checksum bs) s
      _ = execAll (bs.map Instr.crcb ++ [Instr.crcrd]) { s with crc := 0xFFFFFFFF, rdata := none } :=
        execAll_cons (crcinitSetsAllOnes s) _
      _ = execAll [Instr.crcrd] { s with crc := crc32 bs, rdata := none } := execAll_append (execAll_crcb bs rfl) _
      _ = .next { s with crc := crc32 bs, rdata := some (crc32 bs) } := execAll_cons (crcrdReturnsCrc _) []
  · simp [checksum, Nat.add_comm]

/-! ### The procedure of the byte step -/

/-- R91: the rounds are one round repeated. -/
theorem crcRounds_eq_iterate (n : Nat) (c : Word) : crcRounds n c = crcRound^[n] c := by
  induction n generalizing c with
  | zero => rfl
  | succ n ih => exact ih (crcRound c)

/-- Settles O18: the rule's round is `crcRound`; its trace is evaluated. -/
theorem crcStepFollowsTheProcedure : Obligations.CrcStepFollowsTheProcedure :=
  ⟨fun _ _ => crcRounds_eq_iterate 8 _, by decide⟩

/-! ### The table of the byte step

The register is its top byte and a rest. By linearity the rounds act on the two apart: the rest is only shifted, and the top byte
joins the byte absorbed. -/

/-- `n` rounds only shift when the top `n` bits, those that the rounds test, are clear. -/
theorem crcRounds_of_top_clear {n : Nat} {c : Word} (hn : n ≤ 32) (hc : ∀ i, 32 - n ≤ i → c.getLsbD i = false) :
    crcRounds n c = c <<< n := by
  induction n generalizing c with
  | zero => simp [crcRounds]
  | succ n ih =>
    have hround : crcRound c = c <<< 1 := by rw [crcRound, hc 31 (by omega)]; rfl
    have hnext : ∀ i, 32 - n ≤ i → (c <<< 1).getLsbD i = false := by
      intro i hi
      simp [hc (i - 1) (by omega)]
    rw [crcRounds, hround, ih (by omega) hnext, ← BitVec.shiftLeft_add, Nat.add_comm]

theorem word_eq_rest_xor_top (c : Word) : c = (c.setWidth 24).setWidth 32 ^^^ (c.extractLsb' 24 8).setWidth 32 <<< 24 := by
  ext i hi
  by_cases h : i < 24
  · simp [h, BitVec.getLsbD_eq_getElem hi]
  · simp [h, show i - 24 < 8 by omega, show 24 + (i - 24) = i by omega, BitVec.getLsbD_eq_getElem hi]

/-- The eight rounds of a byte step shift the rest of the register up. -/
theorem crcRounds_rest (c : Word) : crcRounds 8 ((c.setWidth 24).setWidth 32) = c <<< 8 := by
  have hclear : ∀ i, 32 - 8 ≤ i → ((c.setWidth 24).setWidth 32).getLsbD i = false := by
    intro i hi
    simp [show ¬ i < 24 by omega]
  rw [crcRounds_of_top_clear (by omega) hclear]
  ext i hi
  by_cases h : i < 8
  · simp [h]
  · simp [h, show i - 8 < 24 by omega, BitVec.getLsbD_eq_getElem (show i - 8 < 32 by omega)]

/-- R100: the byte step is the table-driven step. -/
theorem crcStep_eq_table (c : Word) (b : Byte) : crcStep c b = (c <<< 8) ^^^ crcStep 0 (c.extractLsb' 24 8 ^^^ b) := by
  have hin : c ^^^ b.setWidth 32 <<< 24 =
      (c.setWidth 24).setWidth 32 ^^^ (c.extractLsb' 24 8 ^^^ b).setWidth 32 <<< 24 := by
    conv_lhs => rw [word_eq_rest_xor_top c]
    rw [BitVec.setWidth_xor, BitVec.shiftLeft_xor_distrib, BitVec.xor_assoc]
  have htable : crcStep 0 (c.extractLsb' 24 8 ^^^ b) = crcRounds 8 ((c.extractLsb' 24 8 ^^^ b).setWidth 32 <<< 24) :=
    congrArg (crcRounds 8) BitVec.zero_xor
  rw [crcStep, hin, crcRounds_xor, crcRounds_rest, htable]

/-- Settles O19: the law is `crcStep_eq_table`; the table's entries are evaluated. -/
theorem crcStepIsTableDriven : Obligations.CrcStepIsTableDriven :=
  ⟨crcStep_eq_table, by decide, by decide, by decide, by decide, by decide, by decide⟩

/-! ### The checksum: corner cases and laws -/

/-- Settles O17: the checksum evaluated at each entry of the rule's table. -/
theorem crcCornerCases : Obligations.CrcCornerCases := by
  unfold Obligations.CrcCornerCases
  decide +kernel

/-- R99, affine: the XOR of three runs, the third over zero bytes, which add nothing to the bytes of the other two. -/
theorem crcFold_xor_zeros (c d e : Word) {a b : List Byte} (h : a.length = b.length) :
    crcFold (c ^^^ d ^^^ e) (List.zipWith (fun x y => x ^^^ y) a b) =
      crcFold c a ^^^ crcFold d b ^^^ crcFold e (List.replicate a.length 0) := by
  induction a generalizing b c d e with
  | nil =>
    obtain rfl := List.length_eq_zero_iff.1 h.symm
    rfl
  | cons x a ih =>
    obtain ⟨y, b, rfl⟩ := List.exists_cons_of_length_eq_add_one h.symm
    have hstep : crcStep (c ^^^ d ^^^ e) (x ^^^ y) = crcStep c x ^^^ crcStep d y ^^^ crcStep e 0 := by
      rw [← crcStep_xor, ← crcStep_xor, BitVec.ofNat_eq_ofNat, BitVec.xor_zero]
    simp only [List.zipWith_cons_cons, crcFold_cons, hstep, List.length_cons, List.replicate_succ]
    exact ih _ _ _ (Nat.succ.inj h)

/-- Settles O20: the XOR of three initial values is the initial value. -/
theorem checksumIsAffineOverXor : Obligations.ChecksumIsAffineOverXor :=
  ⟨fun _ _ h => crcFold_xor_zeros Config.crcInit Config.crcInit Config.crcInit h, crc32_append, crcFold_zero_zeros⟩

/-- A register that absorbs its own top byte is shifted by a byte; said of a register that has been shifted already. -/
theorem crcStep_own_byte (c : Word) {k : Nat} (hk : k ≤ 24) :
    crcStep (c <<< k) (c.extractLsb' (24 - k) 8) = c <<< (k + 8) := by
  have htop : (c <<< k).extractLsb' 24 8 = c.extractLsb' (24 - k) 8 := by
    ext i hi
    simp [show 24 + i < 32 by omega, show ¬ 24 + i < k by omega, show 24 + i - k = 24 - k + i by omega,
      BitVec.getLsbD_eq_getElem (show 24 - k + i < 32 by omega)]
  rw [crcStep_eq_table, htop, BitVec.xor_self, BitVec.shiftLeft_add]
  exact BitVec.xor_zero

/-- R99, residue: a register that absorbs its own four bytes, most significant first, is shifted out. -/
theorem crcFold_own_bytes (c : Word) :
    crcFold c [c.extractLsb' 24 8, c.extractLsb' 16 8, c.extractLsb' 8 8, c.extractLsb' 0 8] = 0 := by
  calc crcFold c [c.extractLsb' 24 8, c.extractLsb' 16 8, c.extractLsb' 8 8, c.extractLsb' 0 8]
    _ = crcFold (c <<< 8) [c.extractLsb' 16 8, c.extractLsb' 8 8, c.extractLsb' 0 8] := by
      rw [crcFold_cons, ← crcStep_own_byte c (k := 0) (by omega), BitVec.shiftLeft_zero]
    _ = crcFold (c <<< 16) [c.extractLsb' 8 8, c.extractLsb' 0 8] := by
      rw [crcFold_cons, ← crcStep_own_byte c (k := 8) (by omega)]
    _ = crcFold (c <<< 24) [c.extractLsb' 0 8] := by
      rw [crcFold_cons, ← crcStep_own_byte c (k := 16) (by omega)]
    _ = c <<< 32 := crcStep_own_byte c (k := 24) (by omega)
    _ = 0 := BitVec.shiftLeft_eq_zero (by omega)

/-- Settles O21: the checksum goes on from the message and absorbs its own bytes; the wire-order example is evaluated. -/
theorem bigEndianResidueIsZero : Obligations.BigEndianResidueIsZero :=
  ⟨fun s => (crc32_append s _).trans (crcFold_own_bytes (crc32 s)), by decide +kernel⟩

/-! ### Words as polynomials over GF(2) -/

open Polynomial

/-- The polynomial with the coefficient of `X ^ k` in bit `k` (R101). -/
noncomputable def toPoly {n : Nat} (v : BitVec n) : (ZMod 2)[X] :=
  ∑ k ∈ Finset.range n, if v.getLsbD k then X ^ k else 0

theorem coeff_toPoly {n : Nat} (v : BitVec n) (k : Nat) : (toPoly v).coeff k = if v.getLsbD k then 1 else 0 := by
  have hterm : ∀ i ∈ Finset.range n, (if v.getLsbD i then X ^ i else 0 : (ZMod 2)[X]).coeff k =
      if k = i then (if v.getLsbD k then 1 else 0) else 0 := by
    intro i _
    split_ifs <;> simp_all [coeff_X_pow]
  rw [toPoly, finsetSum_coeff, Finset.sum_congr rfl hterm, Finset.sum_ite_eq]
  by_cases hk : k < n
  · simp [hk]
  · simp [hk, BitVec.getLsbD_of_ge v k (by omega)]

theorem eval_toPoly {n : Nat} (v : BitVec n) (a : ZMod 2) :
    (toPoly v).eval a = ∑ k ∈ Finset.range n, if v.getLsbD k then a ^ k else 0 := by
  simp [toPoly, eval_finsetSum, apply_ite (eval a)]

theorem degree_toPoly_lt {n : Nat} (v : BitVec n) : (toPoly v).degree < n := by
  rw [degree_lt_iff_coeff_zero]
  intro k hk
  rw [coeff_toPoly, BitVec.getLsbD_of_ge v k hk]
  rfl

theorem toPoly_injective {n : Nat} {v w : BitVec n} (h : toPoly v = toPoly w) : v = w := by
  refine BitVec.eq_of_getLsbD_eq fun k _ => ?_
  have hk := congrArg (coeff · k) h
  simp only [coeff_toPoly] at hk
  cases hv : v.getLsbD k <;> cases hw : w.getLsbD k <;> simp_all

@[simp] theorem toPoly_zero (n : Nat) : toPoly (0 : BitVec n) = 0 := by simp [toPoly]

/-- R98: XOR is addition. -/
theorem toPoly_xor {n : Nat} (v w : BitVec n) : toPoly (v ^^^ w) = toPoly v + toPoly w := by
  ext k
  rw [coeff_add, coeff_toPoly, coeff_toPoly, coeff_toPoly, BitVec.getLsbD_xor]
  cases v.getLsbD k <;> cases w.getLsbD k <;> decide

/-- A byte that enters at bits 31:24 is multiplied by `X ^ 24`. -/
theorem toPoly_byte_at_top (b : Byte) : toPoly (b.setWidth 32 <<< 24) = toPoly b * X ^ 24 := by
  ext k
  have hbit : (b.setWidth 32 <<< 24).getLsbD k = (decide (24 ≤ k) && b.getLsbD (k - 24)) := by
    by_cases hk : k < 32
    · simp [hk, ← decide_not]
    · simp [hk, BitVec.getLsbD_of_ge b (k - 24) (by omega)]
  rw [coeff_mul_X_pow', coeff_toPoly, coeff_toPoly, hbit]
  by_cases hk : 24 ≤ k <;> simp [hk]

/-- A shift multiplies by `X`; the bit it discards is the coefficient of `X ^ 32`. -/
theorem X_mul_toPoly (c : Word) : X * toPoly c = toPoly (c <<< 1) + if c.getLsbD 31 then X ^ 32 else 0 := by
  ext k
  cases k with
  | zero => simp [coeff_toPoly, apply_ite (coeff · 0)]
  | succ k =>
    have hout : (if c.getLsbD 31 then X ^ 32 else 0 : (ZMod 2)[X]).coeff (k + 1) =
        if k = 31 ∧ c.getLsbD 31 then 1 else 0 := by
      split_ifs <;> simp_all [coeff_X_pow]
    rw [coeff_X_mul, coeff_add, coeff_toPoly, coeff_toPoly, hout]
    rcases lt_trichotomy k 31 with hk | rfl | hk
    · simp [hk.ne, show k + 1 < 32 by omega, BitVec.getLsbD_eq_getElem (show k < 32 by omega)]
    · simp
    · simp [hk.ne', show ¬ k + 1 < 32 by omega, BitVec.getLsbD_of_ge c k (by omega)]

/-! ### The register modulo the generator

In GF(2)[X] modulo the generator a round is multiplication by `X`, whether or not the bit shifted out was 1. -/

/-- `G` of R101. -/
noncomputable def generator : (ZMod 2)[X] := X ^ 32 + toPoly Config.crcPoly

theorem generator_monic : generator.Monic := monic_X_pow_add (degree_toPoly_lt _)

theorem degree_generator : generator.degree = 32 := by
  have hlow : (toPoly Config.crcPoly).degree < (X ^ 32 : (ZMod 2)[X]).degree := by
    rw [degree_X_pow]
    exact degree_toPoly_lt _
  rw [generator, degree_add_eq_left_of_degree_lt hlow, degree_X_pow]
  rfl

/-- A round takes the generator away when the bit shifted out was 1. -/
theorem X_mul_toPoly_eq_crcRound (c : Word) :
    X * toPoly c = toPoly (crcRound c) + if c.getLsbD 31 then generator else 0 := by
  rw [X_mul_toPoly, crcRound]
  split_ifs
  · rw [toPoly_xor, generator, add_assoc, add_left_comm (toPoly Config.crcPoly), CharTwo.add_self_eq_zero, add_zero]
  · rfl

/-- The register's class modulo the generator. -/
noncomputable def polyClass (c : Word) : AdjoinRoot generator := AdjoinRoot.mk generator (toPoly c)

theorem polyClass_xor (c d : Word) : polyClass (c ^^^ d) = polyClass c + polyClass d := by
  rw [polyClass, toPoly_xor, map_add]
  rfl

theorem polyClass_crcRound (c : Word) : polyClass (crcRound c) = AdjoinRoot.root generator * polyClass c := by
  rw [polyClass, polyClass, ← AdjoinRoot.mk_X, ← map_mul, X_mul_toPoly_eq_crcRound, map_add]
  split_ifs <;> simp

theorem polyClass_crcRounds (n : Nat) (c : Word) :
    polyClass (crcRounds n c) = AdjoinRoot.root generator ^ n * polyClass c := by
  induction n generalizing c with
  | zero => simp [crcRounds]
  | succ n ih => rw [crcRounds, ih, polyClass_crcRound, pow_succ, mul_assoc]

theorem polyClass_crcStep (c : Word) (b : Byte) :
    polyClass (crcStep c b) =
      AdjoinRoot.root generator ^ 8 * polyClass c + AdjoinRoot.mk generator (toPoly b * X ^ 32) := by
  have hb : polyClass (b.setWidth 32 <<< 24) = AdjoinRoot.mk generator (toPoly b * X ^ 24) := by
    rw [polyClass, toPoly_byte_at_top]
  rw [crcStep, polyClass_crcRounds, polyClass_xor, hb]
  simp only [map_mul, map_pow, AdjoinRoot.mk_X]
  ring

/-- A polynomial in the register's class leaves the register as its remainder. -/
theorem modByMonic_generator {p : (ZMod 2)[X]} {c : Word} (h : AdjoinRoot.mk generator p = polyClass c) :
    p %ₘ generator = toPoly c := by
  have hdvd : generator ∣ p - toPoly c := AdjoinRoot.mk_eq_mk.1 h
  have hdeg : (toPoly c).degree < generator.degree := by
    rw [degree_generator]
    exact degree_toPoly_lt c
  rw [modByMonic_eq_of_dvd_sub generator_monic hdvd, (modByMonic_eq_self_iff generator_monic).2 hdeg]

/-! ### The checksum as a remainder -/

/-- `M` of R101: the bytes as one polynomial, bit 7 of the first byte the highest coefficient. -/
noncomputable def messagePoly (s : List Byte) : (ZMod 2)[X] := s.foldl (fun p b => p * X ^ 8 + toPoly b) 0

theorem messagePoly_append_singleton (s : List Byte) (b : Byte) :
    messagePoly (s ++ [b]) = messagePoly s * X ^ 8 + toPoly b := by simp [messagePoly]

/-- R101, from any register value. -/
theorem polyClass_crcFold (c : Word) (s : List Byte) :
    polyClass (crcFold c s) = AdjoinRoot.mk generator (toPoly c * X ^ (8 * s.length) + messagePoly s * X ^ 32) := by
  induction s using List.reverseRecOn with
  | nil => simp [messagePoly, polyClass]
  | append_singleton s b ih =>
    rw [crcFold_append, crcFold_cons, crcFold_nil, polyClass_crcStep, ih, messagePoly_append_singleton, List.length_append,
      List.length_singleton]
    simp only [map_mul, map_pow, map_add, AdjoinRoot.mk_X]
    ring

/-- Settles O22: the checksum is in the class of the dividend, and a word is its own remainder. -/
theorem checksumIsPolynomialRemainder : Obligations.ChecksumIsPolynomialRemainder := fun s =>
  modByMonic_generator (polyClass_crcFold Config.crcInit s).symm

/-! ### Zero bytes

A zero byte multiplies the register by `X ^ 8` modulo the generator. A register it fixes is a multiple of the generator, since the
generator has no common factor with `X ^ 8 - 1 = (X - 1) ^ 8`. -/

theorem eval_one_generator : generator.eval 1 = 1 := by
  rw [generator, eval_add, eval_pow, eval_X, eval_toPoly]
  decide

theorem isCoprime_X_sub_one_generator : IsCoprime (X - C 1) generator := by
  rw [(irreducible_X_sub_C (1 : ZMod 2)).coprime_iff_not_dvd, dvd_iff_isRoot, IsRoot, eval_one_generator]
  exact one_ne_zero

theorem X_sub_one_pow_eight : (X - C 1 : (ZMod 2)[X]) ^ 8 = X ^ 8 - C 1 :=
  (sub_pow_char_pow (p := 2) (n := 3) X (C 1)).trans (by simp)

theorem eq_zero_of_generator_dvd {c : Word} (h : generator ∣ toPoly c) : c = 0 := by
  have hrem : (0 : (ZMod 2)[X]) %ₘ generator = toPoly c :=
    modByMonic_generator ((map_zero _).trans (AdjoinRoot.mk_eq_zero.2 h).symm)
  rw [zero_modByMonic] at hrem
  exact toPoly_injective (hrem.symm.trans (toPoly_zero 32).symm)

/-- R95: a zero byte fixes the register only at zero. -/
theorem eq_zero_of_crcStep_zero_eq_self {c : Word} (h : crcStep c 0 = c) : c = 0 := by
  have hfix : AdjoinRoot.root generator ^ 8 * polyClass c = polyClass c := by
    conv_rhs => rw [← h, polyClass_crcStep, toPoly_zero, zero_mul, map_zero, add_zero]
  have hdvd : generator ∣ (X - C 1) ^ 8 * toPoly c := by
    rw [← AdjoinRoot.mk_eq_zero, X_sub_one_pow_eight, map_mul, map_sub, map_pow, AdjoinRoot.mk_X, C_1, map_one, sub_mul, one_mul]
    exact sub_eq_zero.2 hfix
  exact eq_zero_of_generator_dvd (isCoprime_X_sub_one_generator.symm.pow_right.dvd_of_dvd_mul_left hdvd)

/-- Settles O15: `execCrcb` written out, the zero byte by coprimality with the generator, and the example evaluated. -/
theorem crcbAbsorbsOneByte : Obligations.CrcbAbsorbsOneByte := by
  refine ⟨fun _ _ => rfl, fun c => ⟨eq_zero_of_crcStep_zero_eq_self, ?_⟩, by decide⟩
  rintro rfl
  exact crcStep_zero_zero

end Sys2Proof.Machine
end

section
/-! PROOFS. The transmit framer (spec/41_tx_framer.md): its four operations (O23 to O26), the header read back by RXHDR (O27), `TX` as
the concatenation in issue order (O28), and the pseudo-operations TXW and TXCW (O48), PKT.START and PKT.STOP (O49), PKT.CONF (O50) and
PKT.DATA (O51). -/

namespace Sys2Proof.Machine

open Safety

/-! ### The four operations -/

/-- Settles O23: `execTxb` written out. -/
theorem txbAppendsTheByte : Obligations.TxbAppendsTheByte := fun _ _ => rfl

/-- Settles O24: `execTxcb` written out, and so the two operations it stands for. -/
theorem txcbAppendsAndAbsorbs : Obligations.TxcbAppendsAndAbsorbs := fun _ _ => ⟨rfl, rfl⟩

/-- Settles O25: `execTxhdr` written out. -/
theorem txhdrAppendsTheHeader : Obligations.TxhdrAppendsTheHeader := fun _ _ _ => rfl

/-- Settles O26: `execTxcrc` written out. -/
theorem txcrcAppendsCrcLittleEndian : Obligations.TxcrcAppendsCrcLittleEndian := fun _ => rfl

/-! ### A header read back -/

/-- R141: what RXHDR does with the four bytes at the front of those in time. -/
theorem State.receiveHeader_of_inTime {s : State} {h0 h1 h2 h3 : Byte} {rest : List Byte}
    (h : s.inTime = [h0, h1, h2, h3] ++ rest) :
    s.receiveHeader =
      { s with rtype := h1, rlen := unLe2 h2 h3, res := judgeHeader h0 h1, rx := rest ++ s.tooLate } := by
  have hsat : s.satisfied 4 = true := by simp [State.satisfied_iff, h]
  rw [State.receiveHeader_full hsat, h]
  rfl

/-- R141, R163: the verdict is `OK` exactly for `SOF` and one of the five type codes. -/
theorem judgeHeader_eq_ok_iff (sof ptype : Byte) :
    judgeHeader sof ptype = .ok ↔ sof = Config.sof ∧ ptype ∈ Config.packetTypes := by
  unfold judgeHeader
  split_ifs <;> simp_all

/-- Settles O27: RXHDR takes the four bytes as they are in time, and the bytes of a length read back give the length. -/
theorem headerRoundTrip : Obligations.HeaderRoundTrip := by
  intro s ptype len
  refine ⟨_, _, _, _, _, txhdrAppendsTheHeader s ptype len, rfl, rfl, rfl, le2_toNat len, ?_⟩
  intro u rest hptype hin
  refine ⟨u.receiveHeader.returns none, rfl, ?_⟩
  rw [State.receiveHeader_of_inTime hin]
  exact ⟨(judgeHeader_eq_ok_iff _ _).2 ⟨rfl, hptype⟩, rfl, unLe2_le2 len⟩

/-! ### Sequences of operations -/

/-- R127: every sequence completes; `TX` and `CRC` follow each instruction in issue order. -/
theorem exists_execAll (is : List Instr) (s : State) :
    ∃ t, execAll is s = .next t ∧ t.tx = s.tx ++ streamOf s.crc is ∧ t.crc = is.foldl crcAfter s.crc := by
  induction is generalizing s with
  | nil => exact ⟨s, rfl, (List.append_nil _).symm, rfl⟩
  | cons i is ih =>
    obtain ⟨t, hexec, hw⟩ := exec_writes i s
    obtain ⟨u, hrun, htx, hcrc⟩ := ih t
    rw [hw.crc] at htx hcrc
    rw [hw.tx, List.append_assoc] at htx
    exact ⟨u, (execAll_cons hexec is).trans hrun, htx, hcrc⟩

/-- R110 to R113: a transmit operation appends its bytes, updates `CRC`, returns nothing, and changes nothing else. -/
theorem exec_of_emits {i : Instr} (h : emits i = true) (s : State) :
    exec i s = .next { s with tx := s.tx ++ appendedBy s.crc i, crc := crcAfter s.crc i, rdata := none } := by
  cases i
  case txb | txcb | txhdr | txcrc => rfl
  all_goals cases h

/-- R127: a sequence of transmit operations changes `TX`, `CRC` and `RDATA` only. -/
theorem execAll_of_emits {is : List Instr} (h : ∀ i ∈ is, emits i = true) (s : State) :
    ∃ tx crc rdata, execAll is s = .next { s with tx := tx, crc := crc, rdata := rdata } := by
  induction is generalizing s with
  | nil => exact ⟨_, _, _, rfl⟩
  | cons i is ih =>
    obtain ⟨hi, his⟩ := List.forall_mem_cons.1 h
    obtain ⟨tx, crc, rdata, hrun⟩ := ih his _
    exact ⟨tx, crc, rdata, (execAll_cons (exec_of_emits hi s) is).trans hrun⟩

/-- Settles O28: one induction for `TX` and `CRC` (`exists_execAll`), one for what transmit operations leave alone. -/
theorem txIsTheConcatenationInIssueOrder : Obligations.TxIsTheConcatenationInIssueOrder := by
  intro is s
  obtain ⟨t, hrun, htx, hcrc⟩ := exists_execAll is s
  refine ⟨t, hrun, htx, hcrc, fun hemits => ?_⟩
  obtain ⟨_, _, _, hkept⟩ := execAll_of_emits hemits s
  cases hrun.symm.trans hkept
  exact ⟨rfl, rfl, rfl, rfl, rfl, rfl⟩

/-! ### Words

A run over at least one byte returns nothing, whatever was returned before it; TXW and TXCW are such runs over four bytes. -/

/-- `TXB` of at least one byte, from every state. -/
theorem execAll_txb_cons (b : Byte) (bs : List Byte) (s : State) :
    execAll ((b :: bs).map .txb) s = .next { s with tx := s.tx ++ b :: bs, rdata := none } := by
  rw [List.append_cons]
  exact (execAll_cons (txbAppendsTheByte s b) _).trans (execAll_txb bs rfl)

/-- `TXCB` of at least one byte, from every state. -/
theorem execAll_txcb_cons (b : Byte) (bs : List Byte) (s : State) :
    execAll ((b :: bs).map .txcb) s =
      .next { s with tx := s.tx ++ b :: bs, crc := crcFold s.crc (b :: bs), rdata := none } := by
  rw [List.append_cons]
  exact (execAll_cons (txcbAppendsAndAbsorbs s b).1 _).trans (execAll_txcb bs rfl)

/-- Settles O48: the runs over the four bytes of `LE_4`. -/
theorem wordsGoOutLittleEndian : Obligations.WordsGoOutLittleEndian := fun _ s =>
  ⟨execAll_txb_cons _ _ s, execAll_txcb_cons _ _ s⟩

/-! ### Packets

A packet goes out in one of two ways: its header and then plain bytes (START, STOP), or its header and then summed bytes with their
checksum (CONF, DATA). -/

/-- R112, R110: a header, then bytes outside any checksum. -/
theorem execAll_plainPacket (ptype : Byte) (len : Half) (bs : List Byte) (s : State) :
    execAll (.txhdr ptype len :: bs.map .txb) s = .next { s with tx := s.tx ++ (headerBytes ptype len ++ bs), rdata := none } := by
  rw [← List.append_assoc]
  exact (execAll_cons (txhdrAppendsTheHeader s ptype len) _).trans (execAll_txb bs rfl)

/-- R112, R94, R111, R113: a header, then bytes summed from the initial value, then their checksum. -/
theorem execAll_summedPacket (ptype : Byte) (len : Half) (bs : List Byte) (s : State) :
    execAll (.txhdr ptype len :: .crcinit :: (bs.map .txcb ++ [.txcrc])) s =
      .next { s with
        tx := s.tx ++ headerBytes ptype len ++ bs ++ le4 (crc32 bs)
        crc := crc32 bs
        rdata := none } :=
  calc execAll (.txhdr ptype len :: .crcinit :: (bs.map .txcb ++ [.txcrc])) s
    _ = execAll (.crcinit :: (bs.map .txcb ++ [.txcrc])) { s with tx := s.tx ++ headerBytes ptype len, rdata := none } :=
      execAll_cons (txhdrAppendsTheHeader s ptype len) _
    _ = execAll (bs.map .txcb ++ [.txcrc])
          { s with tx := s.tx ++ headerBytes ptype len, crc := Config.crcInit, rdata := none } :=
      execAll_cons (crcinitSetsAllOnes _) _
    _ = execAll [.txcrc] { s with tx := s.tx ++ headerBytes ptype len ++ bs, crc := crc32 bs, rdata := none } :=
      execAll_append (execAll_txcb bs rfl) _
    _ = _ := execAll_cons (txcrcAppendsCrcLittleEndian _) []

/-- Settles O49: a header and eight plain zero bytes each. -/
theorem startAndStopPackets : Obligations.StartAndStopPackets := fun s =>
  ⟨execAll_plainPacket Config.typeStart Config.lenStartStop eightZeros s,
    execAll_plainPacket Config.typeStop Config.lenStartStop eightZeros s, rfl, rfl, rfl, rfl⟩

/-- R124: the operations of CONF are those of its header and its summed body. -/
theorem opsOf_pktConf (v : VersionTag) (size imageCrc : Word) :
    opsOf (pktConf v size imageCrc) =
      .txhdr Config.typeConf Config.lenConf :: .crcinit :: ((confBody v size imageCrc).map .txcb ++ [.txcrc]) := rfl

/-- Settles O50: CONF is a summed packet, and its body is twelve bytes. -/
theorem confPacketWithItsSelfChecksum : Obligations.ConfPacketWithItsSelfChecksum := by
  intro v n c s
  refine ⟨?_, rfl, rfl, rfl⟩
  rw [opsOf_pktConf]
  exact execAll_summedPacket Config.typeConf Config.lenConf (confBody v n c) s

/-- R125: the operations of DATA are those of its header and its summed chunk. -/
theorem opsOf_dataActions (chunk : List Byte) :
    opsOf (dataActions chunk) =
      .txhdr Config.typeData (dataLength chunk) :: .crcinit :: (chunk.map .txcb ++ [.txcrc]) := by
  rw [dataActions, opsOf_append, opsOf_map_op]
  rfl

/-- Settles O51: DATA is a summed packet of the chunk; `pktData` refuses by the chunk's length alone. -/
theorem dataPacketWithItsChecksum : Obligations.DataPacketWithItsChecksum := by
  intro chunk s
  refine ⟨fun hlen => ⟨dataActions chunk, if_pos hlen, ?_, rfl, ?_⟩, fun hlen => if_neg (Nat.not_le.2 hlen)⟩
  · simp [opsOf_dataActions]
  · rw [opsOf_dataActions, execAll_summedPacket, headerBytes, ← List.append_assoc]
    rfl

end Sys2Proof.Machine
end

section
/-! PROOFS. The receive decoder (spec/42_rx_decoder.md): RXHDR (O29), RXRESP (O30), the response the peer sends (O31), what both receive
operations leave alone (O33), and the test of AWAIT.ACK (O52). -/

namespace Sys2Proof.Machine

/-! ### The verdicts and the length field -/

/-- R72: the length field as the number `byte2 + 256 * byte3`. -/
theorem unLe2_eq_ofNat (lo hi : Byte) : unLe2 lo hi = BitVec.ofNat 16 (lo.toNat + 256 * hi.toNat) := by
  rw [← unLe2_toNat, BitVec.ofNat_toNat, BitVec.setWidth_eq]

/-- R141: a header read in full is never judged `SHORT`. -/
theorem judgeHeader_ne_short (sof ptype : Byte) : judgeHeader sof ptype ≠ .short := by
  unfold judgeHeader
  split_ifs <;> decide

/-- R143: a response read in full is never judged `SHORT`. -/
theorem judgeResponse_ne_short (ackCode sof ptype ack : Byte) : judgeResponse ackCode sof ptype ack ≠ .short := by
  unfold judgeResponse
  split_ifs <;> decide

/-- R143, R163: behind the header of a response the code alone decides. -/
@[simp] theorem judgeResponse_resp (ackCode ack : Byte) :
    judgeResponse ackCode Config.sof Config.typeResp ack = if ack ≠ ackCode then .notAck else .ok := rfl

/-! ### The two receive operations by the bytes in time -/

/-- A read of `n` bytes is not satisfied when fewer are in time. -/
theorem State.satisfied_eq_false {s : State} {n : Nat} (h : s.inTime.length < n) : s.satisfied n = false := by
  rwa [← Bool.not_eq_true, State.satisfied_iff, Nat.not_le]

/-- R141, `Short`. -/
theorem exec_rxhdr_short {s : State} (h : s.inTime.length < 4) :
    exec .rxhdr s = .next { s with res := .short, rx := s.tooLate, rdata := none } := by
  rw [exec, execRxhdr, State.receiveHeader_short (State.satisfied_eq_false h)]
  rfl

/-- R143, `Short`. -/
theorem exec_rxresp_short {s : State} (h : s.inTime.length < 12) :
    exec .rxresp s = .next { s with res := .short, rx := s.tooLate, rdata := none } := by
  rw [exec, execRxresp, State.receiveResponse_short _ (State.satisfied_eq_false h)]
  rfl

/-- R143: what RXRESP does with the response at the front of the bytes in time, whatever its seven reserved bytes. -/
theorem State.receiveResponse_of_inTime {s : State} {r0 r1 r2 r3 ack : Byte} {reserved rest : List Byte} (ackCode : Byte)
    (hlen : reserved.length = 7) (h : s.inTime = [r0, r1, r2, r3, ack] ++ reserved ++ rest) :
    s.receiveResponse ackCode =
      { s with
        rtype := r1
        rlen := unLe2 r2 r3
        rack := ack
        res := judgeResponse ackCode r0 r1 ack
        rx := rest ++ s.tooLate } := by
  have h12 : ([r0, r1, r2, r3, ack] ++ reserved).length = 12 := by simp [hlen]
  have hsat : s.satisfied 12 = true := by simp [State.satisfied_iff, h, hlen]
  rw [State.receiveResponse_full ackCode hsat, h, List.take_left' h12, List.drop_left' h12]
  rfl

/-- Settles O29: a full read is `receiveHeader_of_inTime` with the length as a number, a short one `exec_rxhdr_short`. -/
theorem rxhdrDecodesOneHeader : Obligations.RxhdrDecodesOneHeader := by
  refine ⟨fun s h0 h1 h2 h3 rest hin => ?_, fun _ => exec_rxhdr_short⟩
  rw [exec, execRxhdr, State.receiveHeader_of_inTime hin, unLe2_eq_ofNat]
  rfl

/-- Settles O30: a full read is `receiveResponse_of_inTime` with the length as a number, a short one `exec_rxresp_short`. -/
theorem rxrespJudgesOneResponse : Obligations.RxrespJudgesOneResponse := by
  refine ⟨fun s r0 r1 r2 r3 r4 r5 r6 r7 r8 r9 r10 r11 rest hin => ?_, fun _ => exec_rxresp_short⟩
  have hlen : [r5, r6, r7, r8, r9, r10, r11].length = 7 := rfl
  rw [exec, execRxresp, State.receiveResponse_of_inTime Config.ackCode hlen hin, unLe2_eq_ofNat]
  rfl

/-- Settles O31: SOF and type are those of a response, so the code decides; the NACK code is not the ACK code (R7). -/
theorem rxrespAcceptsExactlyTheAck : Obligations.RxrespAcceptsExactlyTheAck := by
  intro s len ack reserved rest hlen hin
  refine ⟨(s.receiveResponse Config.ackCode).returns none, rfl, ?_⟩
  rw [State.receiveResponse_of_inTime Config.ackCode hlen hin]
  refine ⟨rfl, rfl, unLe2_le2 len, ?_, ?_⟩
  · simp
  · rintro rfl
    simp [Config.nackCode_ne_ackCode]

/-! ### Counting the bytes taken -/

/-- Every byte in `RX` or arriving is either in time or too late. -/
theorem State.length_inTime_add_tooLate (s : State) :
    (s.rx ++ s.read.late).length = s.inTime.length + s.tooLate.length := by
  rw [← State.inTime_append_tooLate, List.length_append]

/-- R147: a receive operation either finds too few bytes, and then only `RES`, `RX` and `RDATA` change, or takes its `n` bytes from the
front and gives a verdict other than `SHORT`. -/
theorem exec_receive_cases {i : Instr} {n : Nat} {s t : State} (hi : i = .rxhdr ∧ n = 4 ∨ i = .rxresp ∧ n = 12)
    (h : exec i s = .next t) :
    (s.inTime.length < n ∧ t = { s with res := .short, rx := s.tooLate, rdata := none }) ∨
      (n ≤ s.inTime.length ∧ t.res ≠ .short ∧ t.rx = s.inTime.drop n ++ s.tooLate) := by
  rcases Nat.lt_or_ge s.inTime.length n with hlt | hge
  · refine .inl ⟨hlt, ?_⟩
    rcases hi with ⟨rfl, rfl⟩ | ⟨rfl, rfl⟩
    · exact Host.Outcome.next.inj (h.symm.trans (exec_rxhdr_short hlt))
    · exact Host.Outcome.next.inj (h.symm.trans (exec_rxresp_short hlt))
  · refine .inr ⟨hge, ?_⟩
    have hsat := (s.satisfied_iff n).2 hge
    rcases hi with ⟨rfl, rfl⟩ | ⟨rfl, rfl⟩
    · cases h
      rw [State.receiveHeader_full hsat]
      exact ⟨judgeHeader_ne_short _ _, rfl⟩
    · cases h
      rw [State.receiveResponse_full _ hsat]
      exact ⟨judgeResponse_ne_short _ _ _ _, rfl⟩

/-- R147: a receive operation leaves `TX`, `CRC`, `FAULT` and the moves to come, and RXHDR `RACK` too. -/
theorem exec_receive_frame {i : Instr} {s t : State} (hi : i = .rxhdr ∨ i = .rxresp) (h : exec i s = .next t) :
    t.tx = s.tx ∧ t.crc = s.crc ∧ t.fault = s.fault ∧ t.events = s.events ∧ (i = .rxhdr → t.rack = s.rack) := by
  have hw := execWrites_of_exec h
  have hrack : i = .rxhdr → t.rack = s.rack := fun hi => hw.rack (by simp [hi])
  rcases hi with rfl | rfl
  all_goals exact ⟨hw.tx.trans (List.append_nil _), hw.crc, hw.fault, hw.events, hrack⟩

/-- R147, R43: a `SHORT` outcome leaves the three registers and takes fewer than `n` bytes; any other takes exactly `n`. -/
theorem exec_receive_count {i : Instr} {n : Nat} {s t : State} (hi : i = .rxhdr ∧ n = 4 ∨ i = .rxresp ∧ n = 12)
    (h : exec i s = .next t) :
    (t.res = .short →
      t.rtype = s.rtype ∧ t.rlen = s.rlen ∧ t.rack = s.rack ∧ (s.rx ++ s.read.late).length < n + t.rx.length) ∧
    (t.res ≠ .short → (s.rx ++ s.read.late).length = n + t.rx.length) := by
  rw [State.length_inTime_add_tooLate]
  obtain ⟨hlt, rfl⟩ | ⟨hge, hres, hrx⟩ := exec_receive_cases hi h
  · exact ⟨fun _ => ⟨rfl, rfl, rfl, Nat.add_lt_add_right hlt _⟩, fun hne => absurd rfl hne⟩
  · refine ⟨fun hshort => absurd hshort hres, fun _ => ?_⟩
    rw [hrx, List.length_append, List.length_drop]
    omega

/-- Settles O33: the frame, the suffix and the count of a receive operation, each proved above. -/
theorem decoderTouchesOnlyItsRegisters : Obligations.DecoderTouchesOnlyItsRegisters := by
  intro s i n hi
  have hreceive : i = .rxhdr ∨ i = .rxresp := hi.imp And.left And.left
  obtain ⟨t, hexec, -⟩ := exec_writes i s
  obtain ⟨htx, hcrc, hfault, hevents, hrack⟩ := exec_receive_frame hreceive hexec
  exact ⟨t, hexec, htx, hcrc, hfault, hevents, hrack, exec_receive_rx_suffix hreceive hexec, exec_receive_count hi hexec⟩

/-! ### AWAIT.ACK -/

/-- R23: the code of `OK` is its own. -/
theorem Res.code_eq_ok_iff (r : Res) : r.code = Res.ok.code ↔ r = .ok := by
  cases r <;> decide

/-- R146: the host's test of the STATUS word asks whether `RES` is `OK`. -/
theorem ackedBy_statusWord_iff (s : State) : ackedBy (statusWord s) = true ↔ s.res = .ok := by
  obtain ⟨hres, -⟩ := statusWord_fields s
  rw [ackedBy, hres, beq_iff_eq, Res.code_eq_ok_iff]

/-- Settles O52: RDST returns the STATUS word of the state RXRESP left. -/
theorem awaitAckTestsTheResult : Obligations.AwaitAckTestsTheResult := fun _ =>
  ⟨_, _, _, rfl, rfl, rfl, ackedBy_statusWord_iff _⟩

end Sys2Proof.Machine
end

section
/-! PROOFS. Exceptions and status (spec/60_exceptions.md): the receive record every step keeps (O45), that every step has a next state
(O39), the exception of an illegal command (O8), the words of RDST and RDRX (O34, O35) and the error kinds (O54). -/

namespace Sys2Proof.Machine

open Safety

/-! ### The receive record

R161: a receive operation leaves a record of its own, whatever it found; nothing but a receive operation or a reset touches the four
registers the record speaks of. -/

/-- The record speaks of `RES`, `RTYPE`, `RLEN` and `RACK` alone. -/
theorem receiveRecord_congr {s t : State} (h : ReceiveRecord s) (hres : t.res = s.res) (hrtype : t.rtype = s.rtype)
    (hrlen : t.rlen = s.rlen) (hrack : t.rack = s.rack) : ReceiveRecord t := by
  unfold ReceiveRecord
  rw [hres, hrtype, hrlen, hrack]
  exact h

/-- `SHORT` says nothing of the other registers. -/
theorem receiveRecord_of_short {t : State} (h : t.res = .short) : ReceiveRecord t := by
  simp [ReceiveRecord, h]

/-- R141: the verdict of `RXHDR` on the type it stores. -/
theorem receiveRecord_of_judgeHeader {t : State} {sof : Byte} (h : t.res = judgeHeader sof t.rtype) : ReceiveRecord t := by
  unfold judgeHeader at h
  split_ifs at h with hsof htype
  · simp [ReceiveRecord, h]
  · simp [ReceiveRecord, h, htype]
  · have hne : t.rtype ≠ Config.typeResp := by
      intro heq
      rw [heq] at htype
      exact htype (by decide)
    simp [ReceiveRecord, h, hne]

/-- R143: the verdict of `RXRESP` on the type and the code it stores. -/
theorem receiveRecord_of_judgeResponse {t : State} {sof : Byte}
    (h : t.res = judgeResponse Config.ackCode sof t.rtype t.rack) : ReceiveRecord t := by
  unfold judgeResponse at h
  split_ifs at h with hsof htype hack
  · simp [ReceiveRecord, h]
  · simp [ReceiveRecord, h, htype]
  · simp [ReceiveRecord, h, not_not.1 htype, hack]
  · simp [ReceiveRecord, h, not_not.1 htype, Config.packetTypes]

/-- `RXHDR` leaves a record, from any state. -/
theorem receiveRecord_receiveHeader (s : State) : ReceiveRecord s.receiveHeader := by
  cases h : s.satisfied 4
  · rw [State.receiveHeader_short h]
    exact receiveRecord_of_short rfl
  · rw [State.receiveHeader_full h]
    exact receiveRecord_of_judgeHeader rfl

/-- `RXRESP` leaves a record, from any state. -/
theorem receiveRecord_receiveResponse (s : State) : ReceiveRecord (s.receiveResponse Config.ackCode) := by
  cases h : s.satisfied 12
  · rw [State.receiveResponse_short _ h]
    exact receiveRecord_of_short rfl
  · rw [State.receiveResponse_full _ h]
    exact receiveRecord_of_judgeResponse rfl

/-- Every instruction keeps the record: the receive operations leave a new one, the others write none of its registers. -/
theorem exec_keeps_receiveRecord {i : Instr} {s t : State} (hs : ReceiveRecord s) (h : exec i s = .next t) :
    ReceiveRecord t := by
  by_cases hi : i = .rxhdr ∨ i = .rxresp
  · rcases hi with rfl | rfl
    · cases h
      exact receiveRecord_receiveHeader s
    · cases h
      exact receiveRecord_receiveResponse s
  · have hw := execWrites_of_exec h
    obtain ⟨hres, hrtype, hrlen⟩ := hw.verdict hi
    exact receiveRecord_congr hs hres hrtype hrlen (hw.rack (not_or.1 hi).2)

/-- A reset leaves the record of `NONE` (R36). -/
theorem receiveRecord_applyReset (s : State) : ReceiveRecord s.applyReset :=
  receiveRecord_congr receiveRecordHoldsAtReset rfl rfl rfl rfl

/-- Settles O45: by the five kinds of step; only a legal command and a reset write the registers of the record. -/
theorem everyStepKeepsTheReceiveRecord : Obligations.EveryStepKeepsTheReceiveRecord := by
  intro s t hs h
  rcases step_next_cases h with rfl | ⟨w, m, es, i, -, -, hexec⟩ |
    ⟨w, m, es, r, -, -, rfl⟩ | ⟨bs, es, -, rfl⟩ | ⟨es, -, rfl⟩
  · exact hs
  · have hissued : ReceiveRecord ((s.setEvents es).setRead m) := receiveRecord_congr hs rfl rfl rfl rfl
    exact exec_keeps_receiveRecord hissued hexec
  · exact receiveRecord_congr hs rfl rfl rfl rfl
  · exact receiveRecord_congr hs rfl rfl rfl rfl
  · exact receiveRecord_applyReset _

/-! ### Every step completes, an illegal command included -/

/-- Settles O39: a step is a next state outright, or the `exec` of an instruction, which is one too (`exec_writes`). -/
theorem everyStepCompletes : Obligations.EveryStepCompletes := by
  intro s
  have hexec (i : Instr) (u : State) : ∃ t, exec i u = .next t := (exec_writes i u).imp fun _ => And.left
  rcases step_cases (s := s) rfl with ⟨-, ho⟩ | ⟨w, m, es, i, -, -, ho⟩ | ⟨w, m, es, r, -, -, ho⟩ | ⟨bs, es, i, -, -, ho⟩ |
    ⟨bs, es, r, -, -, ho⟩ | ⟨es, -, ho⟩
  · exact ⟨_, ho⟩
  · exact ho ▸ hexec i _
  · exact ⟨_, ho⟩
  · exact ho ▸ hexec i _
  · exact ⟨_, ho⟩
  · exact ⟨_, ho⟩

/-- Settles O8: the move at the head of the list is performed, and a word the decoder rejects raises `IllegalCommand`. -/
theorem illegalCommandIsTaken : Obligations.IllegalCommandIsTaken := by
  intro s w m es r hev hdec
  calc step s = perform (.issue w m) (s.setEvents es) := step_event hev
    _ = .next ((s.setEvents es).setRead m).raiseIllegalCommand := issueWord_error hdec m _

/-! ### The packed words as numbers -/

/-- A field set above `n` bits counts `2 ^ n` times. -/
theorem toNat_append_eq_add {m n : Nat} (hi : BitVec m) (lo : BitVec n) :
    (hi ++ lo).toNat = lo.toNat + 2 ^ n * hi.toNat := by
  rw [BitVec.toNat_append, ← Nat.shiftLeft_add_eq_or_of_lt lo.isLt, Nat.shiftLeft_eq, Nat.add_comm, Nat.mul_comm]

/-- R170: the STATUS word. -/
theorem statusWord_eq_ofNat (s : State) : statusWord s = BitVec.ofNat 32 (s.res.code.toNat + 256 * s.fault.toNat) := by
  have hnum : (statusWord s).toNat = s.res.code.toNat + 256 * s.fault.toNat := by
    simp only [statusWord, toNat_append_eq_add, BitVec.ofNat_eq_ofNat, BitVec.toNat_zero, BitVec.toNat_ofBool]
    omega
  rw [← hnum, BitVec.ofNat_toNat, BitVec.setWidth_eq]

/-- R171: the RXINFO word. -/
theorem rxinfoWord_eq_ofNat (s : State) :
    rxinfoWord s = BitVec.ofNat 32 (s.rack.toNat + 256 * s.rtype.toNat + 65536 * s.rlen.toNat) := by
  have hnum : (rxinfoWord s).toNat = s.rack.toNat + 256 * s.rtype.toNat + 65536 * s.rlen.toNat := by
    rw [rxinfoWord, toNat_append_eq_add, toNat_append_eq_add]
    omega
  rw [← hnum, BitVec.ofNat_toNat, BitVec.setWidth_eq]

/-- Settles O34: RDST returns the STATUS word, which is that number. -/
theorem rdstReturnsStatus : Obligations.RdstReturnsStatus := by
  intro s
  rw [← statusWord_eq_ofNat]
  rfl

/-- Settles O35: RDRX returns the RXINFO word, which is that number. -/
theorem rdrxReturnsRxinfo : Obligations.RdrxReturnsRxinfo := by
  intro s
  rw [← rxinfoWord_eq_ofNat]
  rfl

/-! ### The error kind of a verdict -/

/-- R23: the six codes differ. -/
theorem Res.code_eq_code_iff (r r' : Res) : r.code = r'.code ↔ r = r' := by
  cases r <;> cases r' <;> decide

/-- R164: the error kind the two words give, in terms of the registers they pack. -/
theorem failureKind_of_words (s : State) :
    failureKind (statusWord s) (rxinfoWord s) =
      if s.res = .short then .transportError
      else if s.res = .notAck ∧ s.rack = Config.nackCode then .deviceRejected
      else .protocolViolation := by
  obtain ⟨hres, -⟩ := statusWord_fields s
  obtain ⟨hrack, -⟩ := rxinfoWord_fields s
  simp only [failureKind, hres, hrack, Res.code_eq_code_iff]

/-- Settles O54: the two words give back `RES` and `RACK`, and the rows of R164 are read off. -/
theorem failureKindsFollowTheVerdict : Obligations.FailureKindsFollowTheVerdict := by
  intro s
  rw [failureKind_of_words]
  refine ⟨fun hres => ?_, fun hres => ?_, fun hres => ?_, fun hres hrack => ?_, fun hres hrack => ?_⟩
  · simp [hres]
  · simp [hres]
  · simp [hres]
  · simp [hres, hrack]
  · simp [hres, hrack]

end Sys2Proof.Machine
end

section
/-! PROOFS. Reset and the host's sequence (spec/70_reset_and_hazards.md): the reset event (O11), the chunks of an image (O53), the
settle delay (O55), the gates (O56), failed writes (O57), what follows a failure (O58) and that every transfer ends (O60). -/

namespace Sys2Proof.Machine

open Safety

/-! ### Reset -/

/-- R9, R77: whatever word is issued, in whatever state, there is a next state. -/
theorem exists_perform_issue (w : Word) (m : ReadMove) (s : State) : ∃ u, perform (.issue w m) s = .next u := by
  cases hdec : decode .command w with
  | ok i =>
    obtain ⟨u, hexec, -⟩ := exec_writes i (s.setRead m)
    exact ⟨u, (issueWord_ok hdec m s).trans hexec⟩
  | error r => exact ⟨_, issueWord_error hdec m s⟩

/-- Settles O11: the step is `applyReset`, and any word can be issued in any state. -/
theorem resetEventSetsRegistersAndTx : Obligations.ResetEventSetsRegistersAndTx := by
  intro s es hev
  refine ⟨(s.setEvents es).applyReset, step_event hev, rfl, rfl, rfl, rfl, rfl, rfl, rfl, rfl, rfl, ?_⟩
  exact fun w m => exists_perform_issue w m _

/-! ### The chunks of an image -/

/-- R205: chunk `i` is one of the chunks exactly when it begins inside the image. -/
theorem lt_chunkCount_iff (i n : Nat) : i < chunkCount n ↔ i * 1024 < n := by
  simp only [chunkCount, Config.maxChunk]
  omega

@[simp] theorem chunks_length (image : List Byte) : (chunks image).length = chunkCount image.length := by
  simp [chunks]

@[simp] theorem chunk_length (image : List Byte) (i : Nat) :
    (chunk image i).length = min 1024 (image.length - 1024 * i) := by
  simp [chunk, Config.maxChunk]

/-- R205: the first `k` chunks are the first `1024 * k` bytes. -/
theorem flatten_first_chunks (image : List Byte) (k : Nat) :
    ((List.range k).map (chunk image)).flatten = image.take (1024 * k) := by
  induction k with
  | zero => rfl
  | succ k ih =>
    rw [List.range_succ, List.map_append, List.flatten_append, ih, List.map_singleton, List.flatten_singleton, Nat.mul_succ,
      List.take_add]
    rfl

/-- R205: together the chunks are the image. -/
theorem flatten_chunks (image : List Byte) : (chunks image).flatten = image := by
  have hall : image.length ≤ 1024 * chunkCount image.length := by
    simp only [chunkCount, Config.maxChunk]
    omega
  rw [chunks, flatten_first_chunks, List.take_of_length_le hall]

/-- Settles O53: the chunks partition the image, and the length of each follows from where it begins. -/
theorem chunksRebuildTheImage : Obligations.ChunksRebuildTheImage := by
  intro image
  refine ⟨flatten_chunks image, chunks_length image, fun c hc => ?_, fun k hk => ?_⟩
  · obtain ⟨i, hi, rfl⟩ := List.mem_map.1 hc
    rw [List.mem_range, lt_chunkCount_iff] at hi
    rw [chunk_length]
    omega
  · rw [chunks_length] at hk
    have hnext := (lt_chunkCount_iff _ _).1 hk
    refine ⟨chunk image k, ?_, ?_⟩
    · simp [chunks, List.getElem?_range (Nat.lt_of_succ_lt hk)]
    · rw [chunk_length]
      omega

/-! ### The settle delay

A packet is a header, the delay, and then operations none of which is a header. -/

/-- Operations without a header among them need no delay. -/
theorem settled_map_op {is : List Instr} (h : ∀ i ∈ is, ∀ ptype len, i ≠ .txhdr ptype len) :
    settled false (is.map .op) = true := by
  induction is with
  | nil => rfl
  | cons i is ih =>
    obtain ⟨hi, his⟩ := List.forall_mem_cons.1 h
    cases i
    case txhdr ptype len => exact absurd rfl (hi ptype len)
    all_goals exact ih his

/-- Settles O55: three packets evaluated, and the payload of DATA has no header in it. -/
theorem everyHeaderSettles : Obligations.EveryHeaderSettles := by
  refine ⟨rfl, rfl, fun _ _ _ => rfl, fun chunk => ?_⟩
  have hpayload : ∀ i ∈ chunk.map Instr.txcb ++ [.txcrc], ∀ ptype len, i ≠ .txhdr ptype len := by
    simp only [List.mem_append, List.mem_map, List.mem_singleton]
    rintro _ (⟨b, -, rfl⟩ | rfl) ptype len <;> exact nofun
  exact settled_map_op hpayload

/-! ### The gates -/

/-- R146, R210: without an ACK the gate leads to `Failed`. -/
theorem Transfer.gate_not_acked {t : Transfer} (h : t.acked = false) (next : Phase) (plan : List HostAction) :
    ∃ r, t.gate next plan = { t with phase := .failed r, plan := [] } := ⟨_, by rw [Transfer.gate, h]; rfl⟩

/-- R201: the phase after a gate, by where the next chunk begins. -/
theorem Transfer.phaseFrom_eq (t : Transfer) (i : Nat) :
    t.phaseFrom i = if i * 1024 < t.image.length then .sendingChunk i else .awaitStopAck :=
  if_congr (lt_chunkCount_iff _ _) rfl rfl

/-- With its plan done a working phase makes its transition, whatever the environment does to the block meanwhile. -/
theorem hostStep_of_plan_done {m : HostMove} {t : Transfer} (hp : Working t.phase) (h : t.plan = []) :
    hostStep m t = (t.disturb m).advance := Transfer.act_done (t := t.disturb m) hp h

/-- R200: in an awaiting phase the transition is a gate. -/
theorem Transfer.advance_eq_gate {t : Transfer}
    (h : t.phase = .awaitStartAck ∨ t.phase = .awaitConfigAck ∨ (∃ k, t.phase = .awaitChunkAck k) ∨
      t.phase = .awaitStopAck) :
    Working t.phase ∧ ∃ next plan, t.advance = t.gate next plan := by
  rcases h with h | h | ⟨k, h⟩ | h
  · exact ⟨by simp [h, Working], _, _, Transfer.advance_start h⟩
  · exact ⟨by simp [h, Working], _, _, Transfer.advance_conf h⟩
  · exact ⟨by simp [h, Working], _, _, Transfer.advance_chunk h⟩
  · exact ⟨by simp [h, Working], _, _, Transfer.advance_stop h⟩

/-- R200, R201: the phase after each awaiting phase, on an ACK. -/
theorem Transfer.advance_phase_of_acked {t : Transfer} (hack : t.acked = true) :
    (t.phase = .awaitStartAck → t.advance.phase = .awaitConfigAck) ∧
    (t.phase = .awaitConfigAck → t.advance.phase = t.phaseFrom 0) ∧
    (∀ k, t.phase = .awaitChunkAck k → t.advance.phase = t.phaseFrom (k + 1)) ∧
    (t.phase = .awaitStopAck → t.advance.phase = .done) := by
  refine ⟨fun h => ?_, fun h => ?_, fun k h => ?_, fun h => ?_⟩
  · rw [Transfer.advance_start h, Transfer.gate_acked hack]
  · rw [Transfer.advance_conf h, Transfer.gate_acked hack]
  · rw [Transfer.advance_chunk h, Transfer.gate_acked hack]
  · rw [Transfer.advance_stop h, Transfer.gate_acked hack]

/-- Settles O56: the step is the transition of the phase, a gate that looks at the word the host has read and at nothing else. -/
theorem gatesOpenOnlyOnAck : Obligations.GatesOpenOnlyOnAck := by
  intro m t hplan
  have hgate : (t.phase = .awaitStartAck ∨ t.phase = .awaitConfigAck ∨ (∃ k, t.phase = .awaitChunkAck k) ∨
        t.phase = .awaitStopAck) → hostStep m t = (t.disturb m).advance :=
    fun h => hostStep_of_plan_done (Transfer.advance_eq_gate h).1 hplan
  constructor
  · intro hphase hack
    obtain ⟨-, next, plan, hadvance⟩ := Transfer.advance_eq_gate (t := t.disturb m) hphase
    obtain ⟨r, hclosed⟩ := Transfer.gate_not_acked (t := t.disturb m) hack next plan
    exact ⟨r, by rw [hgate hphase, hadvance, hclosed]⟩
  · intro hack
    obtain ⟨hstart, hconf, hchunk, hstop⟩ := Transfer.advance_phase_of_acked (t := t.disturb m) hack
    refine ⟨fun h => ?_, fun h => ?_, fun k h => ?_, fun h => ?_⟩
    · rw [hgate (.inl h), hstart h]
    · rw [hgate (.inr (.inl h)), hconf h, Transfer.phaseFrom_eq, Transfer.disturb_image]
      cases t.image <;> simp
    · rw [hgate (.inr (.inr (.inl ⟨k, h⟩))), hchunk k h, Transfer.phaseFrom_eq, Transfer.disturb_image]
    · rw [hgate (.inr (.inr (.inr h))), hstop h]

/-! ### Failed writes -/

/-- R211: a write the transport fails. -/
theorem Transfer.issue_writeFails {t : Transfer} {m : HostMove} {i : Instr} {rest : List HostAction} (hi : emits i = true)
    (hm : m.writeFails = true) : t.issue m i rest = { t with phase := .failed .transportError, plan := [] } := by
  simp [Transfer.issue, hi, hm]

/-- Settles O57: the step is the failed write, on the block as the environment left it. -/
theorem failedWriteEndsTheTransfer : Obligations.FailedWriteEndsTheTransfer := by
  intro m t i rest hidle hdone hfailed hplan hi hm
  have hstep : hostStep m t = { t.disturb m with phase := .failed .transportError, plan := [] } := by
    rw [hostStep, Transfer.act_op (t := t.disturb m) ⟨hidle, hdone, hfailed⟩ hplan, Transfer.issue_writeFails hi hm]
  rw [hstep]
  exact ⟨rfl, m.onBlock_tx t.block⟩

/-! ### What an action of the host can be -/

/-- The phases in which the host does nothing more (R200). -/
def Terminal (p : Phase) : Prop := p = .done ∨ ∃ r, p = .failed r

theorem Working.ne_done {p : Phase} (h : Working p) : p ≠ .done := h.2.1

theorem Working.not_terminal {p : Phase} (h : Working p) : ¬ Terminal p := by
  obtain ⟨-, hdone, hfailed⟩ := h
  rintro (rfl | ⟨r, rfl⟩)
  · exact hdone rfl
  · exact hfailed r rfl

theorem idle_or_working {p : Phase} (h : ¬ Terminal p) : p = .idle ∨ Working p := by
  by_cases hidle : p = .idle
  · exact .inl hidle
  · exact .inr ⟨hidle, fun hd => h (.inl hd), fun r hr => h (.inr ⟨r, hr⟩)⟩

/-- R200: `Done` and `Failed` are terminal. -/
theorem Transfer.act_terminal {t : Transfer} (h : Terminal t.phase) (m : HostMove) : t.act m = t := by
  rcases h with h | ⟨r, h⟩ <;> simp [Transfer.act, h]

/-- An idle host makes its transition. -/
theorem Transfer.act_idle {t : Transfer} (h : t.phase = .idle) (m : HostMove) : t.act m = t.advance := by
  simp [Transfer.act, h]

/-- How many actions a plan takes: one each, and the sixteen of CONF on top where CONF is still to be planned. -/
def planCost : List HostAction → Nat
  | [] => 0
  | .op _ :: rest => planCost rest + 1
  | .settle :: rest => planCost rest + 1
  | .phaseWait :: rest => planCost rest + 1
  | .sendConf :: rest => planCost rest + 17

@[simp] theorem planCost_append (a b : List HostAction) : planCost (a ++ b) = planCost a + planCost b := by
  induction a with
  | nil => simp [planCost]
  | cons x a ih => cases x <;> simp only [List.cons_append, planCost, ih] <;> omega

@[simp] theorem planCost_map_op (is : List Instr) : planCost (is.map .op) = is.length := by
  induction is with
  | nil => rfl
  | cons i is ih => simp [planCost, ih]

/-- What one action makes of a transfer. -/
inductive ActsAs (t : Transfer) : Transfer → Prop
  /-- a terminal phase stays as it is -/
  | stays (h : Terminal t.phase) : ActsAs t t
  /-- a phase makes its transition -/
  | advances (h : ¬ Terminal t.phase) : ActsAs t t.advance
  /-- the transport fails a write -/
  | failsWrite (h : Working t.phase) : ActsAs t { t with phase := .failed .transportError, plan := [] }
  /-- a working phase does the next action of its plan -/
  | works (plan : List HostAction) (b : State) (x : Option Word) (h : Working t.phase)
      (hcost : planCost plan < planCost t.plan) : ActsAs t { t with plan := plan, block := b, returned := x }

/-- Issuing an operation fails the write or does the action. -/
theorem Transfer.issue_actsAs {t : Transfer} {i : Instr} {rest : List HostAction} (hp : Working t.phase)
    (h : t.plan = .op i :: rest) (m : HostMove) : ActsAs t (t.issue m i rest) := by
  have hcost : planCost rest < planCost t.plan := by rw [h]; exact Nat.lt_succ_self _
  obtain ⟨u, hu⟩ := exists_perform_issue (encode i) m.read t.block
  unfold Transfer.issue
  split_ifs
  · exact .failsWrite hp
  · rw [hu]
    exact .works rest u u.rdata hp hcost

theorem Transfer.act_actsAs (t : Transfer) (m : HostMove) : ActsAs t (t.act m) := by
  by_cases hterm : Terminal t.phase
  · rw [Transfer.act_terminal hterm]
    exact .stays hterm
  rcases idle_or_working hterm with hidle | hp
  · rw [Transfer.act_idle hidle]
    exact .advances hterm
  match hplan : t.plan with
  | [] =>
    rw [Transfer.act_done hp hplan]
    exact .advances hterm
  | .op i :: rest =>
    rw [Transfer.act_op hp hplan]
    exact Transfer.issue_actsAs hp hplan m
  | .settle :: rest =>
    rw [Transfer.act_wait hp (.inl rfl) hplan]
    exact .works rest _ _ hp (by rw [hplan]; exact Nat.lt_succ_self _)
  | .phaseWait :: rest =>
    rw [Transfer.act_wait hp (.inr rfl) hplan]
    exact .works rest _ _ hp (by rw [hplan]; exact Nat.lt_succ_self _)
  | .sendConf :: rest =>
    rw [Transfer.act_sendConf hp hplan]
    refine .works _ _ _ hp ?_
    rw [hplan, planCost_append, Nat.add_comm]
    exact Nat.lt_succ_self _

/-! ### The transitions

R200 runs the phases in one direction. A rank that falls at every transition says so, and with it the actions of a transfer can be
counted. -/

/-- A number that falls at every transition of a transfer of `k` chunks. -/
def phaseRank (k : Nat) : Phase → Nat
  | .idle => 2 * k + 6
  | .awaitStartAck => 2 * k + 5
  | .awaitConfigAck => 2 * k + 4
  | .sendingChunk i => 2 * (k - i) + 3
  | .awaitChunkAck i => 2 * (k - i) + 2
  | .awaitStopAck => 1
  | .done => 0
  | .failed _ => 0

/-- A bound on the plan of any phase, from the length of the image. -/
def planBound (n : Nat) : Nat := n + 23

/-- What one transition makes of a transfer: a phase of lower rank, with a plan within the bound; the rest of the transfer stays. -/
def Descends (t t' : Transfer) : Prop :=
  ∃ p plan, t' = { t with phase := p, plan := plan } ∧
    phaseRank (chunkCount t.image.length) p < phaseRank (chunkCount t.image.length) t.phase ∧
    planCost plan ≤ planBound t.image.length

/-- A gate descends when the phase behind it does: `Failed` has the lowest rank. -/
theorem Transfer.gate_descends {t : Transfer} {p : Phase} {plan : List HostAction}
    (hrank : phaseRank (chunkCount t.image.length) p < phaseRank (chunkCount t.image.length) t.phase)
    (hcost : planCost plan ≤ planBound t.image.length) : Descends t (t.gate p plan) := by
  cases hack : t.acked with
  | true => exact ⟨p, plan, Transfer.gate_acked hack p plan, hrank, hcost⟩
  | false =>
    obtain ⟨r, hr⟩ := Transfer.gate_not_acked hack p plan
    exact ⟨.failed r, [], hr, Nat.zero_lt_of_lt hrank, Nat.zero_le _⟩

/-- R201: the phase that sends chunk `i`, or STOP, is bounded by two less for each chunk before it. -/
theorem Transfer.phaseRank_phaseFrom (t : Transfer) (i : Nat) :
    phaseRank (chunkCount t.image.length) (t.phaseFrom i) ≤ 2 * (chunkCount t.image.length + 1 - i) + 1 := by
  unfold Transfer.phaseFrom
  split_ifs with hi
  · simp only [phaseRank]
    omega
  · exact Nat.le_add_left _ _

/-- R125: DATA takes its header, the delay, CRCINIT, one action per byte, and TXCRC. -/
theorem planCost_dataActions (chunk : List Byte) : planCost (dataActions chunk) = chunk.length + 4 := by
  simp only [dataActions, planCost_append, planCost_map_op, planCost, List.length_append, List.length_map, List.length_singleton]
  omega

/-- R96: CHECKSUM takes one action per byte and two more. -/
theorem length_checksum (s : List Byte) : (checksum s).length = s.length + 2 := by
  rw [(checksumLeavesAndReturnsTheCrc s .reset).2]
  omega

/-- R201: the plan of STOP takes 13 actions, that of DATA at most four more than the image has bytes. -/
theorem Transfer.planCost_planFrom (t : Transfer) (i : Nat) : planCost (t.planFrom i) < planBound t.image.length := by
  unfold Transfer.planFrom planBound
  split_ifs
  · rw [planCost_dataActions, chunk_length]
    omega
  · exact Nat.lt_add_left _ (by decide)

/-- Every transition descends (R200, R201). -/
theorem Transfer.advance_descends {t : Transfer} (h : ¬ Terminal t.phase) : Descends t t.advance := by
  have hshort {k : Nat} (hk : k ≤ 23) : k ≤ planBound t.image.length := Nat.le_add_left_of_le hk
  cases hp : t.phase with
  | idle =>
    rw [Transfer.advance_idle hp]
    exact ⟨_, _, rfl, by simp [hp, phaseRank], hshort (by decide)⟩
  | awaitStartAck =>
    rw [Transfer.advance_start hp]
    refine Transfer.gate_descends (by simp [hp, phaseRank]) ?_
    simp only [planCost_append, planCost_map_op, length_checksum, awaitAck, planCost, planBound]
    omega
  | awaitConfigAck =>
    have hrank := t.phaseRank_phaseFrom 0
    rw [Transfer.advance_conf hp]
    exact Transfer.gate_descends (by rw [hp, phaseRank]; omega) (t.planCost_planFrom 0)
  | sendingChunk i =>
    rw [Transfer.advance_sent hp]
    exact ⟨_, _, rfl, by simp [hp, phaseRank], hshort (by decide)⟩
  | awaitChunkAck i =>
    have hrank := t.phaseRank_phaseFrom (i + 1)
    rw [Transfer.advance_chunk hp]
    exact Transfer.gate_descends (by rw [hp, phaseRank]; omega) (t.planCost_planFrom _).le
  | awaitStopAck =>
    rw [Transfer.advance_stop hp]
    exact Transfer.gate_descends (by simp [hp, phaseRank]) (Nat.zero_le _)
  | done => exact absurd (.inl hp) h
  | failed r => exact absurd (.inr ⟨r, hp⟩) h

/-! ### After a failure -/

/-- An action that ends in `Failed` leaves the block alone. -/
theorem Transfer.act_block_of_failed {t : Transfer} {m : HostMove} {r : ErrorKind} (h : (t.act m).phase = .failed r) :
    (t.act m).block = t.block := by
  have hact := t.act_actsAs m
  generalize t.act m = t' at h hact
  cases hact with
  | stays => rfl
  | advances hterm =>
    obtain ⟨p, plan, hadvance, -, -⟩ := Transfer.advance_descends hterm
    rw [hadvance]
  | failsWrite => rfl
  | works plan b x hp => exact absurd (.inr ⟨r, h⟩) hp.not_terminal

/-- Once terminal, always terminal: the environment goes on alone. -/
theorem hostStep_terminal {t : Transfer} (h : Terminal t.phase) (m : HostMove) : hostStep m t = t.disturb m :=
  Transfer.act_terminal (t := t.disturb m) h m

/-- From a terminal phase on the phase stays, and `TX` too unless a reset empties it. -/
theorem hostRun_terminal {t : Transfer} (h : Terminal t.phase) (ms : List HostMove) :
    (hostRun ms t).phase = t.phase ∧ (hostRun ms t).block.tx = if ms.any HostMove.resets then [] else t.block.tx := by
  induction ms generalizing t with
  | nil => exact ⟨rfl, rfl⟩
  | cons m ms ih =>
    obtain ⟨hphase, htx⟩ := ih (t := t.disturb m) h
    rw [hostRun, hostStep_terminal h]
    refine ⟨hphase, htx.trans ?_⟩
    cases hm : m.resets <;> simp [hm]

/-- Settles O58: the failing action leaves the block as the environment left it, and after it the environment is alone. -/
theorem nothingIsEmittedAfterFailure : Obligations.NothingIsEmittedAfterFailure := by
  intro t m ms r hfailed
  obtain ⟨hphase, htx⟩ := hostRun_terminal (.inr ⟨r, hfailed⟩) ms
  have hblock : (hostStep m t).block = m.onBlock t.block := Transfer.act_block_of_failed hfailed
  refine ⟨hphase.trans hfailed, ?_⟩
  rw [htx, hblock, HostMove.onBlock_tx]
  cases hm : m.resets <;> simp [hm]

/-! ### Every transfer ends

Each action either leads to a terminal phase, or is taken off the plan of its phase, or leads to a phase of lower rank, whose plan is
within the bound. -/

/-- A bound on the actions a transfer still takes. -/
def actionsLeft (t : Transfer) : Nat :=
  phaseRank (chunkCount t.image.length) t.phase * (planBound t.image.length + 1) + planCost t.plan

/-- A transition is one of the actions left. -/
theorem Descends.actionsLeft_lt {t t' : Transfer} (h : Descends t t') : actionsLeft t' < actionsLeft t := by
  obtain ⟨p, plan, rfl, hrank, hcost⟩ := h
  have hroom := Nat.mul_le_mul_right (planBound t.image.length + 1) (Nat.succ_le_of_lt hrank)
  rw [Nat.succ_mul] at hroom
  simp only [actionsLeft]
  omega

/-- Every action of a transfer that has not ended is one of the actions left. -/
theorem hostStep_actionsLeft_lt {t : Transfer} (h : ¬ Terminal t.phase) (m : HostMove) :
    Terminal (hostStep m t).phase ∨ actionsLeft (hostStep m t) < actionsLeft t := by
  have hact := (t.disturb m).act_actsAs m
  rw [hostStep]
  generalize (t.disturb m).act m = t' at hact
  cases hact with
  | stays hterm => exact absurd hterm h
  | advances hterm => exact .inr (Transfer.advance_descends hterm).actionsLeft_lt
  | failsWrite => exact .inl (.inr ⟨_, rfl⟩)
  | works plan b x _ hcost => exact .inr (Nat.add_lt_add_left hcost _)

/-- A transfer ends within the actions left. -/
theorem hostRun_ends {t : Transfer} {ms : List HostMove} (h : actionsLeft t < ms.length) : Terminal (hostRun ms t).phase := by
  induction ms generalizing t with
  | nil => exact absurd h (Nat.not_lt_zero _)
  | cons m ms ih =>
    by_cases hterm : Terminal t.phase
    · rwa [(hostRun_terminal hterm (m :: ms)).1]
    rw [hostRun]
    rcases hostStep_actionsLeft_lt hterm m with hended | hlt
    · rwa [(hostRun_terminal hended ms).1]
    · rw [List.length_cons] at h
      exact ih (by omega)

/-- A transfer begins idle, with the image and the block it is given. -/
theorem eq_of_beginTransfer {image : List Byte} {v : VersionTag} {b : State} {t : Transfer}
    (h : beginTransfer image v b = .ok t) : t = ⟨.idle, [], image, v, b, none⟩ := by
  unfold beginTransfer at h
  split_ifs at h
  exact (Except.ok.inj h).symm

/-- Settles O60: the actions left at the beginning depend on the length of the image alone. -/
theorem everyTransferEnds : Obligations.EveryTransferEnds := by
  intro image
  refine ⟨actionsLeft ⟨.idle, [], image, ⟨0, 0, 0, 0⟩, .reset, none⟩ + 1, fun v b t hbegin ms hms => ?_⟩
  obtain rfl := eq_of_beginTransfer hbegin
  exact hostRun_ends hms

end Sys2Proof.Machine
end

section
/-! PROOFS. The host's sequence (spec/70_reset_and_hazards.md R201, R205, R207): what a completed transfer has appended to `TX`
(O59). Read backwards: each lemma says that from one phase and plan a transfer delivers, given that it does from what comes next.
Only `TX`, `CRC` and `FAULT` of the block matter on the way: arriving bytes touch none of them, and no operation writes them by what
it reads. -/

namespace Sys2Proof.Machine

open Safety

/-! ### The outgoing side of the block -/

/-- Two states that agree in `TX`, `CRC` and `FAULT`. -/
structure SameOut (s t : State) : Prop where
  /-- the bytes emitted -/
  tx : s.tx = t.tx
  /-- the checksum register -/
  crc : s.crc = t.crc
  /-- the sticky flag -/
  fault : s.fault = t.fault

theorem SameOut.trans {s t u : State} (h : SameOut s t) (h' : SameOut t u) : SameOut s u :=
  ⟨h.tx.trans h'.tx, h.crc.trans h'.crc, h.fault.trans h'.fault⟩

/-- Arriving bytes are no part of it. -/
theorem SameOut.arrive {s t : State} (h : SameOut s t) (bs : List Byte) : SameOut (s.arrive bs) t := ⟨h.tx, h.crc, h.fault⟩

/-- Nor is the value returned. -/
theorem SameOut.returns {s t : State} (h : SameOut s t) (x : Option Word) : SameOut (s.returns x) t := ⟨h.tx, h.crc, h.fault⟩

/-- What the environment does to a block it does not reset. -/
theorem HostMove.onBlock_of_no_reset {m : HostMove} (hm : m.resets = false) (b : State) : m.onBlock b = b.arrive m.arrivals := by
  simp [HostMove.onBlock, hm]

/-- An instruction run in two such states ends in two such states. -/
theorem SameOut.exec {i : Instr} {s s' t t' : State} (h : SameOut s t) (hs : exec i s = .next s') (ht : exec i t = .next t') :
    SameOut s' t' := by
  have hws := execWrites_of_exec hs
  have hwt := execWrites_of_exec ht
  refine ⟨?_, ?_, ?_⟩
  · rw [hws.tx, hwt.tx, h.tx, h.crc]
  · rw [hws.crc, hwt.crc, h.crc]
  · rw [hws.fault, hwt.fault, h.fault]

/-! ### Delivering

`e` is a state with the `TX`, `CRC` and `FAULT` that the transfer is to end with. -/

/-- Without a reset inside, a run that reaches `Done` ends with the `TX`, `CRC` and `FAULT` of `e`, and with `RES` at `OK`. -/
def Delivers (e : State) (t : Transfer) : Prop :=
  ∀ ms, (∀ m ∈ ms, m.resets = false) → (hostRun ms t).phase = .done →
    SameOut (hostRun ms t).block e ∧ (hostRun ms t).block.res = .ok

/-- A failed transfer never reaches `Done`. -/
theorem Delivers.of_failed {e : State} {t : Transfer} {r : ErrorKind} (h : t.phase = .failed r) : Delivers e t := by
  intro ms _ hdone
  rw [(hostRun_terminal (.inr ⟨r, h⟩) ms).1, h] at hdone
  cases hdone

/-- A gate that stays closed leads to `Failed`, so only an open one needs to be followed. -/
theorem Delivers.gate {e : State} {t : Transfer} {q : Phase} {plan : List HostAction}
    (h : t.acked = true → Delivers e { t with phase := q, plan := plan }) : Delivers e (t.gate q plan) := by
  cases hack : t.acked with
  | true => exact Transfer.gate_acked hack q plan ▸ h hack
  | false =>
    obtain ⟨r, hr⟩ := Transfer.gate_not_acked hack q plan
    exact .of_failed (r := r) (by rw [hr])

/-- In `Done` only bytes arrive. -/
theorem Delivers.of_done {e : State} {t : Transfer} (hp : t.phase = .done) (hout : SameOut t.block e) (hres : t.block.res = .ok) :
    Delivers e t := by
  intro ms hms hdone
  induction ms generalizing t with
  | nil => exact ⟨hout, hres⟩
  | cons m ms ih =>
    obtain ⟨hm, hms⟩ := List.forall_mem_cons.1 hms
    have hstep : hostStep m t = { t with block := t.block.arrive m.arrivals } := by
      rw [hostStep_terminal (.inl hp), Transfer.disturb, HostMove.onBlock_of_no_reset hm]
    rw [hostRun, hstep] at hdone ⊢
    exact ih hp (hout.arrive _) hres hms hdone

/-- Before `Done` it is enough that every action leads to a transfer that delivers. -/
theorem Delivers.step {e : State} {t : Transfer} (hp : t.phase ≠ .done)
    (h : ∀ m, Delivers e (({ t with block := t.block.arrive m.arrivals } : Transfer).act m)) : Delivers e t := by
  intro ms hms hdone
  cases ms with
  | nil => exact absurd hdone hp
  | cons m ms =>
    obtain ⟨hm, hms⟩ := List.forall_mem_cons.1 hms
    rw [hostRun, hostStep, Transfer.disturb, HostMove.onBlock_of_no_reset hm] at hdone ⊢
    exact h m ms hms hdone

section
variable {image : List Byte} {v : VersionTag} {e : State}

/-- From this phase and plan the transfer delivers, whatever the block, as long as it agrees with `s`. -/
def Delivering (image : List Byte) (v : VersionTag) (e : State) (p : Phase) (plan : List HostAction) (s : State) : Prop :=
  ∀ b x, SameOut b s → Delivers e ⟨p, plan, image, v, b, x⟩

/-- An operation whose write does not fail, whether it emits or not: the block runs it. -/
theorem Transfer.issue_ran {t : Transfer} {m : HostMove} {i : Instr} {rest : List HostAction} {u : State}
    (hm : (emits i && m.writeFails) = false) (hdec : decode .command (encode i) = .ok i)
    (hexec : exec i (t.block.setRead m.read) = .next u) :
    t.issue m i rest = { t with plan := rest, block := u, returned := u.rdata } := by
  simp [Transfer.issue, hm, perform, issueWord_ok hdec, hexec]

/-- One operation: its write fails, or the block has run it, as it stood but for arrived bytes. -/
theorem Delivers.op {p : Phase} (hp : Working p) {i : Instr} (hi : i.port = .command) {rest : List HostAction} {b : State}
    {x : Option Word}
    (h : ∀ b' u, SameOut b' b → exec i b' = .next u → Delivers e ⟨p, rest, image, v, u, u.rdata⟩) :
    Delivers e ⟨p, .op i :: rest, image, v, b, x⟩ := by
  have hdec : decode .command (encode i) = .ok i := hi ▸ decodeOfEncodeIsTheInstruction i
  refine .step hp.ne_done fun m => ?_
  rw [Transfer.act_op hp rfl]
  cases hfails : emits i && m.writeFails with
  | true =>
    obtain ⟨hemits, hm⟩ := Bool.and_eq_true_iff.1 hfails
    rw [Transfer.issue_writeFails hemits hm]
    exact .of_failed rfl
  | false =>
    obtain ⟨u, hexec, -⟩ := exec_writes i ((b.arrive m.arrivals).setRead m.read)
    rw [Transfer.issue_ran hfails hdec hexec]
    exact h ((b.arrive m.arrivals).setRead m.read) u ⟨rfl, rfl, rfl⟩ hexec

/-- One operation, when the value it returns does not matter. -/
theorem Delivering.op {p : Phase} (hp : Working p) {i : Instr} (hi : i.port = .command) {rest : List HostAction} {s u : State}
    (hexec : exec i s = .next u) (h : Delivering image v e p rest u) : Delivering image v e p (.op i :: rest) s :=
  fun _ _ hb => .op hp hi fun _ u' hb' hu' => h u' _ ((hb'.trans hb).exec hu' hexec)

/-- A wait. -/
theorem Delivering.wait {p : Phase} (hp : Working p) {a : HostAction} (ha : a = .settle ∨ a = .phaseWait) {rest : List HostAction}
    {s : State} (h : Delivering image v e p rest s) : Delivering image v e p (a :: rest) s := by
  refine fun b x hb => .step hp.ne_done fun m => ?_
  rw [Transfer.act_wait hp ha rfl]
  exact h _ x (hb.arrive _)

/-- An action of a packet: a command, or a wait. -/
def HostAction.inPacket : HostAction → Bool
  | .op i => i.port == .command
  | .settle => true
  | .phaseWait => true
  | .sendConf => false

/-- The actions of a packet do what its operations do. -/
theorem Delivering.packet {p : Phase} (hp : Working p) {acts : List HostAction} (hacts : acts.all HostAction.inPacket = true)
    {rest : List HostAction} {s u : State} (hexec : execAll (opsOf acts) s = .next u) (h : Delivering image v e p rest u) :
    Delivering image v e p (acts ++ rest) s := by
  induction acts generalizing s with
  | nil =>
    cases hexec
    exact h
  | cons a acts ih =>
    rw [List.all_cons, Bool.and_eq_true] at hacts
    obtain ⟨ha, hacts⟩ := hacts
    cases a with
    | op i =>
      obtain ⟨s', hs', -⟩ := exec_writes i s
      exact .op hp (beq_iff_eq.1 ha) hs' (ih hacts ((execAll_cons hs' _).symm.trans hexec))
    | settle => exact .wait hp (.inl rfl) (ih hacts hexec)
    | phaseWait => exact .wait hp (.inr rfl) (ih hacts hexec)
    | sendConf => cases ha

/-- CONF is planned with what CRCRD returned. -/
theorem Delivering.sendConf {p : Phase} (hp : Working p) {rest : List HostAction} {s : State}
    (h : Delivering image v e p (pktConf v (BitVec.ofNat 32 image.length) s.crc ++ rest) s) :
    Delivering image v e p (.op .crcrd :: .sendConf :: rest) s := by
  refine fun b x hb => .op hp rfl fun b' u hb' hu => ?_
  cases hu
  refine .step hp.ne_done fun m => ?_
  rw [Transfer.act_sendConf hp rfl]
  have hout : SameOut (b'.returns (some b'.crc)) s := (hb'.trans hb).returns _
  have hcrc : b'.crc = s.crc := hout.crc
  simp only [State.returns_rdata, Option.getD_some, hcrc]
  exact h _ _ (hcrc ▸ hout.arrive _)

/-- AWAIT.ACK: the transfer fails, or it goes on behind the gate with `RES` at `OK` and the outgoing side as it was. -/
theorem Delivering.await {p : Phase} (hp : Working p) {next : Transfer → Phase} {plan : Transfer → List HostAction} {s : State}
    (hadvance : ∀ t : Transfer, t.phase = p → t.advance = t.gate (next t) (plan t))
    (h : ∀ t : Transfer, t.image = image → ∀ b x, SameOut b s → b.res = .ok →
      Delivers e ⟨next t, plan t, image, v, b, x⟩) :
    Delivering image v e p awaitAck s := by
  intro b x hb
  refine .op hp rfl fun b₁ u₁ hb₁ hu₁ => .op hp rfl fun b₂ u₂ hb₂ hu₂ => ?_
  obtain ⟨htx, hcrc, hfault, -⟩ := exec_receive_frame (.inr rfl) hu₁
  have hout : SameOut b₂ s := hb₂.trans (.trans ⟨htx, hcrc, hfault⟩ (hb₁.trans hb))
  cases hu₂
  refine .step hp.ne_done fun m => ?_
  rw [Transfer.act_done hp rfl, hadvance _ rfl]
  exact .gate fun hack => h _ rfl _ _ ((hout.returns _).arrive _) ((ackedBy_statusWord_iff b₂).1 hack)

/-! ### The packets -/

/-- The state after a packet: these bytes emitted, this left in `CRC`, nothing returned. -/
def State.sent (s : State) (bs : List Byte) (c : Word) : State := { s with tx := s.tx ++ bs, crc := c, rdata := none }

@[simp] theorem State.sent_crc (s : State) (bs : List Byte) (c : Word) : (s.sent bs c).crc = c := rfl

@[simp] theorem State.sent_sent (s : State) (bs bs' : List Byte) (c c' : Word) :
    (s.sent bs c).sent bs' c' = s.sent (bs ++ bs') c' := by
  simp [State.sent]

/-- R66, R67: the operations of START. -/
theorem execAll_pktStart (s : State) : execAll (opsOf pktStart) s = .next (s.sent startPacket s.crc) :=
  execAll_plainPacket Config.typeStart Config.lenStartStop eightZeros s

/-- R67: the operations of STOP. -/
theorem execAll_pktStop (s : State) : execAll (opsOf pktStop) s = .next (s.sent stopPacket s.crc) :=
  execAll_plainPacket Config.typeStop Config.lenStartStop eightZeros s

/-- R68: the operations of CONF. -/
theorem execAll_pktConf (n c : Word) (s : State) :
    execAll (opsOf (pktConf v n c)) s = .next (s.sent (confPacket v n c) (crc32 (confBody v n c))) := by
  rw [opsOf_pktConf, execAll_summedPacket]
  simp only [State.sent, confPacket, List.append_assoc]

/-- R69: the operations of DATA. -/
theorem execAll_dataActions (bs : List Byte) (s : State) :
    execAll (opsOf (dataActions bs)) s = .next (s.sent (dataPacket bs) (crc32 bs)) := by
  rw [opsOf_dataActions, execAll_summedPacket]
  simp only [State.sent, dataPacket, List.append_assoc]

theorem dataActions_inPacket (bs : List Byte) : (dataActions bs).all HostAction.inPacket = true := by
  simp [dataActions, HostAction.inPacket, Instr.port]

/-! ### The chunks -/

/-- What the DATA packets of these chunks leave in `CRC`. -/
def crcAfterChunks (c : Word) (cs : List (List Byte)) : Word := (cs.getLast?.map crc32).getD c

@[simp] theorem crcAfterChunks_cons (c : Word) (bs : List Byte) (cs : List (List Byte)) :
    crcAfterChunks c (bs :: cs) = crcAfterChunks (crc32 bs) cs := by
  simp [crcAfterChunks, List.getLast?_cons, Option.getD_map]

/-- R205: no chunk is left from the number of chunks on. -/
theorem not_lt_of_drop_chunks_eq_nil {i : Nat} (h : (chunks image).drop i = []) : ¬ i < chunkCount image.length := by
  rw [List.drop_eq_nil_iff, chunks_length] at h
  exact Nat.not_lt.2 h

/-- R205: the first chunk left is chunk `i`. -/
theorem of_drop_chunks_eq_cons {i : Nat} {bs : List Byte} {cs : List (List Byte)} (h : (chunks image).drop i = bs :: cs) :
    i < chunkCount image.length ∧ chunk image i = bs ∧ (chunks image).drop (i + 1) = cs := by
  have hi : i < (chunks image).length := by
    rw [← Nat.not_le, ← List.drop_eq_nil_iff, h]
    exact List.cons_ne_nil bs cs
  rw [List.drop_eq_getElem_cons hi] at h
  obtain ⟨hbs, hcs⟩ := List.cons.inj h
  exact ⟨chunks_length image ▸ hi, by simpa [chunks] using hbs, hcs⟩

/-- From the ACK of the packet before chunk `i` on: the chunks left, then STOP. -/
theorem delivering_from (cs : List (List Byte)) {i : Nat} (hcs : (chunks image).drop i = cs) {t : Transfer}
    (ht : t.image = image) (s : State) :
    Delivering image v (s.sent (cs.flatMap dataPacket ++ stopPacket) (crcAfterChunks s.crc cs)) (t.phaseFrom i) (t.planFrom i)
      s := by
  induction cs generalizing i s t with
  | nil =>
    obtain ⟨-, -, -, -, hstop⟩ := working_phases i
    have hi := ht ▸ not_lt_of_drop_chunks_eq_nil hcs
    rw [Transfer.phaseFrom, Transfer.planFrom, if_neg hi, if_neg hi]
    refine .wait hstop (.inr rfl) (.packet hstop rfl (execAll_pktStop s) ?_)
    exact .await hstop (fun _ => Transfer.advance_stop) fun _ _ b x hb hres => .of_done rfl hb hres
  | cons bs cs ih =>
    obtain ⟨-, -, hsending, hawait, -⟩ := working_phases i
    obtain ⟨hi, hbs, hcs⟩ := of_drop_chunks_eq_cons hcs
    rw [Transfer.phaseFrom, Transfer.planFrom, ht, if_pos hi, if_pos hi, hbs, ← List.append_nil (dataActions bs)]
    refine .packet hsending (dataActions_inPacket bs) (execAll_dataActions bs s) fun b x hb => .step nofun fun m => ?_
    rw [Transfer.act_done hsending rfl, Transfer.advance_sent rfl]
    refine Delivering.await (s := s.sent (dataPacket bs) (crc32 bs)) hawait (fun _ => Transfer.advance_chunk)
      (fun t ht b x hb _ => ?_) _ x (hb.arrive _)
    simpa using ih hcs ht (s.sent (dataPacket bs) (crc32 bs)) b x hb

theorem Transfer.working_phaseFrom (t : Transfer) (i : Nat) : Working (t.phaseFrom i) := by
  unfold Transfer.phaseFrom
  split_ifs <;> simp [Working]

/-! ### The whole sequence -/

/-- The checksum that CONF carries of itself (R68). -/
def confCrc (image : List Byte) (v : VersionTag) : Word := crc32 (confBody v (BitVec.ofNat 32 image.length) (crc32 image))

/-- R201, from the ACK of START on: CHECKSUM and CONF, then the chunks and STOP. -/
theorem delivering_conf (s : State) :
    Delivering image v
      (s.sent (confPacket v (BitVec.ofNat 32 image.length) (crc32 image) ++ ((chunks image).flatMap dataPacket ++ stopPacket))
        (crcAfterChunks (confCrc image v) (chunks image)))
      .awaitConfigAck ([.phaseWait] ++ (checksum image).map HostAction.op ++ [.sendConf] ++ awaitAck) s := by
  obtain ⟨-, hconf, -⟩ := working_phases 0
  have hsum : execAll (opsOf ((Instr.crcinit :: image.map .crcb).map .op)) s =
      .next { s with crc := crc32 image, rdata := none } := by
    rw [opsOf_map_op, execAll_cons (crcinitSetsAllOnes s)]
    exact execAll_crcb image rfl
  have hplan : [.phaseWait] ++ (checksum image).map HostAction.op ++ [.sendConf] ++ awaitAck =
      .phaseWait :: ((Instr.crcinit :: image.map .crcb).map .op ++ (.op .crcrd :: .sendConf :: awaitAck)) := by
    simp [checksum]
  rw [hplan]
  refine .wait hconf (.inr rfl) (.packet hconf (by simp [HostAction.inPacket, Instr.port]) hsum (.sendConf hconf ?_))
  refine .packet hconf rfl (execAll_pktConf _ _ _) (.await hconf (fun _ => Transfer.advance_conf) fun t ht b x hb _ => ?_)
  have hchunks := delivering_from (v := v) (chunks image) (i := 0) rfl ht
    (s.sent (confPacket v (BitVec.ofNat 32 image.length) (crc32 image)) (confCrc image v))
  rw [State.sent_sent, State.sent_crc] at hchunks
  exact Delivering.wait (t.working_phaseFrom 0) (.inr rfl) hchunks b x hb

/-- R201, the whole sequence. -/
theorem delivers_begun (b : State) :
    Delivers (b.sent (transferBytes image v) (crcAfterChunks (confCrc image v) (chunks image)))
      ⟨.idle, [], image, v, b, none⟩ := by
  obtain ⟨hstart, -⟩ := working_phases 0
  have hend : b.sent (transferBytes image v) (crcAfterChunks (confCrc image v) (chunks image)) =
      (b.sent startPacket b.crc).sent
        (confPacket v (BitVec.ofNat 32 image.length) (crc32 image) ++ ((chunks image).flatMap dataPacket ++ stopPacket))
        (crcAfterChunks (confCrc image v) (chunks image)) := by
    rw [State.sent_sent, transferBytes]
    simp only [List.append_assoc]
  rw [hend]
  refine .step nofun fun m => ?_
  rw [Transfer.act_idle rfl, Transfer.advance_idle rfl]
  refine Delivering.packet (s := b) hstart rfl (execAll_pktStart b) (.await hstart (fun _ => Transfer.advance_start) ?_) _ none
    ⟨rfl, rfl, rfl⟩
  rintro t rfl b' x hb' -
  exact delivering_conf _ b' x hb'

end

/-! ### The length of a transfer -/

theorem dataPacket_length (bs : List Byte) : (dataPacket bs).length = bs.length + 8 := by
  simp only [dataPacket, List.length_append, headerBytes_length, le4_length]
  omega

theorem length_flatMap_dataPacket (cs : List (List Byte)) :
    (cs.flatMap dataPacket).length = 8 * cs.length + cs.flatten.length := by
  induction cs with
  | nil => rfl
  | cons bs cs ih =>
    simp only [List.flatMap_cons, List.flatten_cons, List.length_append, List.length_cons, ih, dataPacket_length]
    omega

/-- R207: 12 bytes of START, 20 of CONF, 8 and its own bytes for every chunk, 12 of STOP. -/
theorem transferBytes_length (image : List Byte) (v : VersionTag) :
    (transferBytes image v).length = 44 + 8 * chunkCount image.length + image.length := by
  have hdata := length_flatMap_dataPacket (chunks image)
  rw [flatten_chunks, chunks_length] at hdata
  have hstart : startPacket.length = 12 := rfl
  have hstop : stopPacket.length = 12 := rfl
  have hconf (n c : Word) : (confPacket v n c).length = 20 := rfl
  simp only [transferBytes, List.length_append, hdata, hstart, hstop, hconf]
  omega

/-- Settles O59: read backwards from `Done`, the sequence emits the packets one after another; no operation writes `FAULT`. -/
theorem completedTransferIsByteExact : Obligations.CompletedTransferIsByteExact := by
  intro image v b t ms hbegin hms hdone
  obtain rfl := eq_of_beginTransfer hbegin
  obtain ⟨hout, hres⟩ := delivers_begun b ms hms hdone
  exact ⟨hout.tx, transferBytes_length image v, hres, hout.fault, hout.crc⟩

end Sys2Proof.Machine
end

section
/-! PROOFS. The idle block (spec/70_reset_and_hazards.md, section 1; log entry 5): a step with no move to come (O13). -/

namespace Sys2Proof.Machine

/-- Settles O13: the idle case of a step (`step_idle`), in which no move is performed. -/
theorem idleBlockStaysAsItIs : Obligations.IdleBlockStaysAsItIs := fun _ hidle => step_idle hidle

end Sys2Proof.Machine
end
